-- ==== Sys2Proof/Word.lean ====
section
/-! DEFINITION. The one word of the block: an unsigned byte (00_scope.md R9, R12). -/

namespace Sys2Proof

/-- Every host-visible register, parameter and disc byte is 8 bits wide, bit 0 the least significant (R9, R12). -/
abbrev Byte := BitVec 8

end Sys2Proof
end

