-- ==== Sys2Proof/Machine/Disc.lean ====
section
/-! DEFINITION. The types of the disc model and of the backing images (10_state.md R70, R71; 20_memory.md R100 to R117). -/

namespace Sys2Proof.Machine

/-- Bytes by address: strictly rising addresses, no entry 0x00, every unlisted address reading 0x00 (log 13). It holds
a sector's buffer by byte offset (R112) and a backing image by file offset (R140). -/
abbrev Memory := List Host.Cell

/-- An ID field, four bytes in this order (R110). -/
structure IdField where
  track : Byte
  head : Byte
  sector : Byte
  sizeCode : Byte
deriving DecidableEq, Repr, Inhabited

/-- A sector (R112). `data` is its buffer of `realSize` bytes. -/
structure Sector where
  id : IdField
  pcyl : Nat
  record : Nat
  idSize : Nat
  realSize : Nat
  error : Byte
  data : Memory
deriving DecidableEq, Repr, Inhabited

/-- A track (R114). -/
structure Track where
  readable : Bool
  logicalSectors : Nat
  nSectors : Nat
  gaps : Nat × Nat × Nat
  sectors : List Sector
deriving DecidableEq, Repr, Inhabited

/-- The disc kind tag (R116). -/
inductive DiscKind where
  | ssd | dsd | fsd
deriving DecidableEq, Repr, Inhabited

/-- A disc (R116): `headsCode` is 0, 1 or 2; `tracks` is indexed by head, then physical track. -/
structure Disc where
  path : String
  kind : DiscKind
  writable : Bool
  headsCode : Fin 3
  totalTracks : Nat
  tracks : Vector (Vector Track 80) 2
deriving DecidableEq, Repr

/-- Where a track stands in the disc model: drive, head and physical track (R50 `cur_track`, R100). -/
structure TrackAddr where
  drive : Fin 2
  head : Fin 2
  track : Fin 80
deriving DecidableEq, Repr, Inhabited

/-- The address of one byte of the disc model (R100, R101). -/
structure ByteAddr where
  track : TrackAddr
  sector : Nat
  offset : Nat
deriving DecidableEq, Repr, Inhabited

/-- A backing image: a byte string (R71, R140). -/
structure File where
  length : Nat
  bytes : Memory
deriving DecidableEq, Repr, Inhabited

/-- An empty track (R117). -/
def emptyTrack : Track :=
  { readable := false, logicalSectors := 0, nSectors := 0, gaps := (0, 0, 0), sectors := [] }

/-- An empty disc (R117): what a drive with no image mounted holds. -/
def emptyDisc : Disc :=
  { path := "", kind := .ssd, writable := false, headsCode := 1, totalTracks := 0,
    tracks := Vector.replicate 2 (Vector.replicate 80 emptyTrack) }

/-- A file of no bytes. -/
def emptyFile : File := { length := 0, bytes := [] }

end Sys2Proof.Machine
end

