-- ==== Sys2Proof/Config.lean ====
section
/-! DEFINITION. The parameters the hardware fixes (00_scope.md R8) and the free values the spec leaves open. A
constant declared opaque has no body: nothing can prove what it is, so a statement about it holds for every choice. -/

namespace Sys2Proof

/-- `BYTE_TIME` (R8, R330). -/
def Config.byteTime : Nat := 160
/-- `FORMAT_GAP_TIME`, 160 × 256 (R8, R330). -/
def Config.formatGapTime : Nat := 40960
/-- `SHORT_DELAY` (R8, R330). -/
def Config.shortDelay : Nat := 50
/-- `UNLOAD_DELAY` (R8, R302). -/
def Config.unloadDelay : Nat := 4000000
/-- `SSD_DOUBLE_THRESHOLD` (R8, R130). -/
def Config.ssdDoubleThreshold : Nat := 0x40000
/-- `TRACK_BYTES` (R8, R141). -/
def Config.trackBytes : Nat := 2560
/-- `FSD_MAX_LAST_TRACK` (R8, R132). -/
def Config.fsdMaxLastTrack : Nat := 40

/-- `HEAD_LOAD_DELAY`: OPEN (R8, D13; log 8). -/
opaque Config.headLoadDelay : Nat
/-- `STEP_DELAY_ONE`: OPEN (R8, D13; log 8). -/
opaque Config.stepDelayOne : Nat
/-- `SEEK_DELAY_PER_TRACK`: OPEN (R8, D13; log 8). -/
opaque Config.seekDelayPerTrack : Nat

/-- The draw `CORRUPT_SHIFT` of {0, ..., 7}, fresh for each corrupted byte (R8, R356; log 9). -/
opaque Config.corruptShift : Nat → Fin 8
/-- The draw `WRITEBACK_OK` of a writeback (R8, R140; log 9). -/
opaque Config.writebackOk : Nat → Bool
/-- The content of a file after a failed `FileWrite`, which R140 leaves unspecified (log 10). -/
opaque Config.failedFile : Nat → List Byte

/-- The track a tick works on when the transfer state names none, after host misuse (R51, R722; log 11). -/
opaque Config.lostTrack : Nat → Machine.TrackAddr
/-- The sector index a tick works on when the transfer state names none (R51, R722; log 11). -/
opaque Config.lostIndex : Nat → Nat
/-- The sector found where the disc model holds none (R51, R101, R722; log 11). -/
opaque Config.lostSector : Nat → Machine.Sector
/-- The byte read where the disc model or the ID field holds none (R101, R722; log 11). -/
opaque Config.lostByte : Nat → Byte
/-- Where a store to a byte that does not exist lands, if anywhere (R101, R722; log 11). -/
opaque Config.lostStore : Nat → Option Machine.ByteAddr
/-- The rotational position on a track of no sectors, where "modulo n_sectors" says nothing (R123, R722; log 11). -/
opaque Config.lostPosition : Nat → Nat

end Sys2Proof
end

