-- ==== Sys2Proof/Syntax.lean ====
section
/-! DEFINITION. The block's instructions as syntax: one constructor of `Instr` per row of spec/opcode_table.json, the
rows of the command table (R210), and the host calls an instruction travels in (R10, R230, R250). -/

namespace Sys2Proof

/-- The rows of the command table, in the table's order (30_encoding.md R210, R212). A row is what the command latch
holds as `entry` (R35). -/
inductive Command where
  | write | read | readDel128 | readDel | readId | verify | format | seek | readStatus | specify
  | writeSpecial | readSpecial
  | scan | scanDel | write128 | writeDel128 | writeDel | read128 | verifyDel128
  | unknown
deriving DecidableEq, Repr, Inhabited

/-- The instruction set: one constructor per row of the opcode table.

The first twenty are commands. `ss` is the drive-select field, bits 7 and 6 of the command byte (R200, R201): its bit 0
selects drive 0, its bit 1 drive 1. The other operands are the parameter bytes P0, P1, ... of R204 and R206, in order.
An unsupported command carries the parameter bytes the host writes after it, whose number the spec leaves open (R212).

The last eight are single accesses of the host (R250, R305). -/
inductive Instr where
  | write (ss : BitVec 2) (track sector size : Byte)
  | read (ss : BitVec 2) (track sector size : Byte)
  | readdel128 (ss : BitVec 2) (track sector : Byte)
  | readdel (ss : BitVec 2) (track sector size : Byte)
  | readid (ss : BitVec 2) (track p1 count : Byte)
  | verify (ss : BitVec 2) (track sector size : Byte)
  | format (ss : BitVec 2) (track gap3 size gap5 gap1 : Byte)
  | seek (ss : BitVec 2) (track : Byte)
  | rdstatus (ss : BitVec 2)
  | specify (p0 p1 p2 p3 : Byte)
  | wrspecial (ss : BitVec 2) (reg value : Byte)
  | rdspecial (ss : BitVec 2) (reg : Byte)
  | scan (ss : BitVec 2) (params : List Byte)
  | scandel (ss : BitVec 2) (params : List Byte)
  | write128 (ss : BitVec 2) (params : List Byte)
  | writedel128 (ss : BitVec 2) (params : List Byte)
  | writedel (ss : BitVec 2) (params : List Byte)
  | read128 (ss : BitVec 2) (params : List Byte)
  | verifydel128 (ss : BitVec 2) (params : List Byte)
  | unknown (code : Byte)
  | rdstat
  | rdresult
  | rddata
  | cmd (value : Byte)
  | param (value : Byte)
  | reset (value : Byte)
  | wrdata (value : Byte)
  | tick
deriving DecidableEq, Repr, Inhabited

/-- The shell's operations on a drive (R720, 20_memory.md R130 to R133): not rows of the opcode table. -/
inductive ShellOp where
  | loadSSD (drive : Fin 2) (bytes : List Byte) (path : String) (writable : Bool)
  | loadDSD (drive : Fin 2) (bytes : List Byte) (path : String) (writable : Bool)
  | loadFSD (drive : Fin 2) (bytes : List Byte) (path : String)
  | eject (drive : Fin 2)
  | setWritable (drive : Fin 2) (writable : Bool)
deriving DecidableEq, Repr, Inhabited

/-- One thing the host does (R10). `command` is the mnemonic form of R230: the command byte and its parameter bytes,
written one after the other to offsets 0, 1, 1, ... . `readReg` and `writeReg` are the two window entry points with
their 3-bit offset (R250); `tick` is the third entry point (R305). -/
inductive HostOp where
  | command (bytes : List Byte)
  | readReg (offset : BitVec 3)
  | writeReg (offset : BitVec 3) (value : Byte)
  | tick
  | shell (op : ShellOp)
deriving DecidableEq, Repr, Inhabited

/-- A host call with the cycle the host supplies with it (R11). -/
structure HostCall where
  now : Nat
  op : HostOp
deriving DecidableEq, Repr, Inhabited

end Sys2Proof
end

