-- ==== Sys2Proof/WellFormed.lean ====
section
/-! DEFINITION. Which instructions are well formed: the bounds that the operand types do not carry. -/

namespace Sys2Proof

/-- The opcodes, bits 5 to 0, that a row of mask 0x3F matches whatever the select bits are (30_encoding.md R210,
R212, R214). -/
def maskedOpcodes : List (BitVec 6) :=
  [0x0B, 0x13, 0x16, 0x17, 0x1B, 0x1F, 0x23, 0x29, 0x2C, 0x3A, 0x3D, 0x00, 0x04, 0x0A, 0x0E, 0x0F, 0x12, 0x1E]

/-- R213 and R214: a byte takes the fallback when no masked row matches it and it is not exactly Specify's 0x35. -/
def isFallbackByte (code : Byte) : Bool :=
  !(maskedOpcodes.contains (code.extractLsb' 0 6)) && code != 0x35

/-- R36: a command takes at most five parameter bytes, whatever `UNSUPPORTED_PARAMS` is. -/
def unsupportedParamsOk (params : List Byte) : Bool := decide (params.length ≤ 5)

/-- The well-formed instructions. Every operand of a fixed width takes every value (R215: parameter values are never
checked for range by the decode step). -/
def Instr.wf : Instr → Bool
  | .write _ _ _ _ => true
  | .read _ _ _ _ => true
  | .readdel128 _ _ _ => true
  | .readdel _ _ _ _ => true
  | .readid _ _ _ _ => true
  | .verify _ _ _ _ => true
  | .format _ _ _ _ _ _ => true
  | .seek _ _ => true
  | .rdstatus _ => true
  | .specify _ _ _ _ => true
  | .wrspecial _ _ _ => true
  | .rdspecial _ _ => true
  | .scan _ ps => unsupportedParamsOk ps
  | .scandel _ ps => unsupportedParamsOk ps
  | .write128 _ ps => unsupportedParamsOk ps
  | .writedel128 _ ps => unsupportedParamsOk ps
  | .writedel _ ps => unsupportedParamsOk ps
  | .read128 _ ps => unsupportedParamsOk ps
  | .verifydel128 _ ps => unsupportedParamsOk ps
  | .unknown code => isFallbackByte code
  | .rdstat => true
  | .rdresult => true
  | .rddata => true
  | .cmd _ => true
  | .param _ => true
  | .reset _ => true
  | .wrdata _ => true
  | .tick => true

end Sys2Proof
end

