-- ==== Sys2Proof/Decode.lean ====
section
/-! DEFINITION. The command table (30_encoding.md R210 to R214), the decoder of host calls, total and rejecting by
name, and after it the encoder. -/

namespace Sys2Proof

/-- A row of the command table as R210 gives it: a byte `v` matches when `v &&& mask = opcode`. -/
structure TableRow where
  opcode : Byte
  mask : Byte
  command : Command
deriving DecidableEq, Repr

/-- R210 and R212, rows 1 to 20 in order. -/
def commandTable : List TableRow :=
  [ ⟨0x0B, 0x3F, .write⟩, ⟨0x13, 0x3F, .read⟩, ⟨0x16, 0x3F, .readDel128⟩, ⟨0x17, 0x3F, .readDel⟩,
    ⟨0x1B, 0x3F, .readId⟩, ⟨0x1F, 0x3F, .verify⟩, ⟨0x23, 0x3F, .format⟩, ⟨0x29, 0x3F, .seek⟩,
    ⟨0x2C, 0x3F, .readStatus⟩, ⟨0x35, 0xFF, .specify⟩, ⟨0x3A, 0x3F, .writeSpecial⟩, ⟨0x3D, 0x3F, .readSpecial⟩,
    ⟨0x00, 0x3F, .scan⟩, ⟨0x04, 0x3F, .scanDel⟩, ⟨0x0A, 0x3F, .write128⟩, ⟨0x0E, 0x3F, .writeDel128⟩,
    ⟨0x0F, 0x3F, .writeDel⟩, ⟨0x12, 0x3F, .read128⟩, ⟨0x1E, 0x3F, .verifyDel128⟩,
    ⟨0x00, 0x00, .unknown⟩ ]

/-- Whether a table row matches a command byte (R210). -/
def TableRow.hits (row : TableRow) (v : Byte) : Bool := v &&& row.mask == row.opcode

/-- R210: the first row that matches; the last row matches every byte, so the default is never used (R211). -/
def decodeCommand (v : Byte) : Command :=
  match commandTable.find? (fun row => row.hits v) with
  | some row => row.command
  | none => .unknown

/-- The parameter `UNSUPPORTED_PARAMS` (R8, R212): the number of parameter bytes of rows 13 to 19, each 0 to 5 (R36). -/
abbrev UnsupportedParams := Vector (Fin 6) 7

/-- R212: the default counts, in the order of rows 13 to 19. -/
def defaultUnsupportedParams : UnsupportedParams := #v[5, 5, 2, 2, 3, 2, 2]

/-- `param_count` of a row (R210): fixed for rows 1 to 12 and 20, `UNSUPPORTED_PARAMS` for rows 13 to 19 (R212). -/
def paramCount (u : UnsupportedParams) : Command → Nat
  | .write => 3
  | .read => 3
  | .readDel128 => 2
  | .readDel => 3
  | .readId => 3
  | .verify => 3
  | .format => 5
  | .seek => 1
  | .readStatus => 0
  | .specify => 4
  | .writeSpecial => 2
  | .readSpecial => 1
  | .scan => u[0].val
  | .scanDel => u[1].val
  | .write128 => u[2].val
  | .writeDel128 => u[3].val
  | .writeDel => u[4].val
  | .read128 => u[5].val
  | .verifyDel128 => u[6].val
  | .unknown => 0

/-- Why a mnemonic form is no instruction. -/
inductive DecodeError where
  /-- A mnemonic form with no command byte. -/
  | noCommandByte
  /-- The command byte is followed by the wrong number of parameter bytes for its row (R202): `given` were there. -/
  | parameterCount (command : Command) (given : Nat)
deriving DecidableEq, Repr

/-- An unsupported command accepts up to five parameter bytes, since the spec leaves their number open (R212, R36). -/
def decodeUnsupported (command : Command) (make : List Byte → Instr) (ps : List Byte) : Except DecodeError Instr :=
  if unsupportedParamsOk ps then .ok (make ps) else .error (.parameterCount command ps.length)

/-- The drive-select field of a command byte (R200). -/
def selectField (code : Byte) : BitVec 2 := code.extractLsb' 6 2

/-- The instruction that a command byte and its parameter bytes stand for (R202, R204, R210). -/
def decodeCommandBytes (code : Byte) (ps : List Byte) : Except DecodeError Instr :=
  let ss := selectField code
  match decodeCommand code with
  | .write => match ps with
    | [t, sec, v] => .ok (.write ss t sec v)
    | _ => .error (.parameterCount .write ps.length)
  | .read => match ps with
    | [t, sec, v] => .ok (.read ss t sec v)
    | _ => .error (.parameterCount .read ps.length)
  | .readDel128 => match ps with
    | [t, sec] => .ok (.readdel128 ss t sec)
    | _ => .error (.parameterCount .readDel128 ps.length)
  | .readDel => match ps with
    | [t, sec, v] => .ok (.readdel ss t sec v)
    | _ => .error (.parameterCount .readDel ps.length)
  | .readId => match ps with
    | [t, p1, n] => .ok (.readid ss t p1 n)
    | _ => .error (.parameterCount .readId ps.length)
  | .verify => match ps with
    | [t, sec, v] => .ok (.verify ss t sec v)
    | _ => .error (.parameterCount .verify ps.length)
  | .format => match ps with
    | [t, g3, v, g5, g1] => .ok (.format ss t g3 v g5 g1)
    | _ => .error (.parameterCount .format ps.length)
  | .seek => match ps with
    | [t] => .ok (.seek ss t)
    | _ => .error (.parameterCount .seek ps.length)
  | .readStatus => match ps with
    | [] => .ok (.rdstatus ss)
    | _ => .error (.parameterCount .readStatus ps.length)
  | .specify => match ps with
    | [p0, p1, p2, p3] => .ok (.specify p0 p1 p2 p3)
    | _ => .error (.parameterCount .specify ps.length)
  | .writeSpecial => match ps with
    | [r, v] => .ok (.wrspecial ss r v)
    | _ => .error (.parameterCount .writeSpecial ps.length)
  | .readSpecial => match ps with
    | [r] => .ok (.rdspecial ss r)
    | _ => .error (.parameterCount .readSpecial ps.length)
  | .scan => decodeUnsupported .scan (.scan ss) ps
  | .scanDel => decodeUnsupported .scanDel (.scandel ss) ps
  | .write128 => decodeUnsupported .write128 (.write128 ss) ps
  | .writeDel128 => decodeUnsupported .writeDel128 (.writedel128 ss) ps
  | .writeDel => decodeUnsupported .writeDel (.writedel ss) ps
  | .read128 => decodeUnsupported .read128 (.read128 ss) ps
  | .verifyDel128 => decodeUnsupported .verifyDel128 (.verifydel128 ss) ps
  | .unknown => match ps with
    | [] => .ok (.unknown code)
    | _ => .error (.parameterCount .unknown ps.length)

/-- What a host call turns out to be: an instruction of the table, an access of an offset that has no row (R254,
R269), a shell operation (R720), or a mnemonic form that is no instruction. -/
inductive Decoded where
  | instr (i : Instr)
  | otherRead (offset : BitVec 3)
  | otherWrite (offset : BitVec 3) (value : Byte)
  | shell (op : ShellOp)
  | reject (why : DecodeError)
deriving DecidableEq, Repr

/-- A read of the register window (R155, R251 to R254). -/
def decodeRead (offset : BitVec 3) : Decoded :=
  if offset = 0 then .instr .rdstat
  else if offset = 1 then .instr .rdresult
  else if offset = 4 then .instr .rddata
  else .otherRead offset

/-- A write of the register window (R155, R257). -/
def decodeWrite (offset : BitVec 3) (v : Byte) : Decoded :=
  if offset = 0 then .instr (.cmd v)
  else if offset = 1 then .instr (.param v)
  else if offset = 2 then .instr (.reset v)
  else if offset = 4 then .instr (.wrdata v)
  else .otherWrite offset v

/-- The decoder of host calls, total on every call. -/
def decode : HostOp → Decoded
  | .command [] => .reject .noCommandByte
  | .command (code :: ps) =>
    match decodeCommandBytes code ps with
    | .ok i => .instr i
    | .error e => .reject e
  | .readReg offset => decodeRead offset
  | .writeReg offset v => decodeWrite offset v
  | .tick => .instr .tick
  | .shell op => .shell op

/-- The bytes of a number, least significant first. -/
def leBytes : Nat → Nat → List Byte
  | 0, _ => []
  | n + 1, w => BitVec.ofNat 8 w :: leBytes n (w / 256)

/-- The bytes of the mnemonic form whose table bits are `w`: the command byte and as many parameter bytes as its row
takes (R202; for rows 13 to 19 the default counts of R212), numbered on from it. -/
def tableBytes (w : Nat) : List Byte :=
  leBytes (1 + paramCount defaultUnsupportedParams (decodeCommand (BitVec.ofNat 8 w))) w

/-- The instruction the decoder reads from a table row's bits; bits above `nbits` are 0. A row with no bits (a host
bus access) has no word. -/
def decodeTableWord (nbits w : Nat) : Option Instr :=
  if nbits < 8 then none
  else match decode (.command (tableBytes (w % 2 ^ nbits))) with
    | .instr i => some i
    | _ => none

/-! The encoder. -/

/-- A command byte from its drive-select field and its opcode field (R200). -/
def commandByte (ss : BitVec 2) (opcode : BitVec 6) : Byte := ss ++ opcode

/-- The host call of a well-formed instruction, from the encodings of R204, R210 and R230. -/
def encode : Instr → HostOp
  | .write ss t sec v => .command [commandByte ss 0x0B, t, sec, v]
  | .read ss t sec v => .command [commandByte ss 0x13, t, sec, v]
  | .readdel128 ss t sec => .command [commandByte ss 0x16, t, sec]
  | .readdel ss t sec v => .command [commandByte ss 0x17, t, sec, v]
  | .readid ss t p1 n => .command [commandByte ss 0x1B, t, p1, n]
  | .verify ss t sec v => .command [commandByte ss 0x1F, t, sec, v]
  | .format ss t g3 v g5 g1 => .command [commandByte ss 0x23, t, g3, v, g5, g1]
  | .seek ss t => .command [commandByte ss 0x29, t]
  | .rdstatus ss => .command [commandByte ss 0x2C]
  | .specify p0 p1 p2 p3 => .command [0x35, p0, p1, p2, p3]
  | .wrspecial ss r v => .command [commandByte ss 0x3A, r, v]
  | .rdspecial ss r => .command [commandByte ss 0x3D, r]
  | .scan ss ps => .command (commandByte ss 0x00 :: ps)
  | .scandel ss ps => .command (commandByte ss 0x04 :: ps)
  | .write128 ss ps => .command (commandByte ss 0x0A :: ps)
  | .writedel128 ss ps => .command (commandByte ss 0x0E :: ps)
  | .writedel ss ps => .command (commandByte ss 0x0F :: ps)
  | .read128 ss ps => .command (commandByte ss 0x12 :: ps)
  | .verifydel128 ss ps => .command (commandByte ss 0x1E :: ps)
  | .unknown code => .command [code]
  | .rdstat => .readReg 0
  | .rdresult => .readReg 1
  | .rddata => .readReg 4
  | .cmd v => .writeReg 0 v
  | .param v => .writeReg 1 v
  | .reset v => .writeReg 2 v
  | .wrdata v => .writeReg 4 v
  | .tick => .tick

end Sys2Proof
end

