-- ==== Sys2Proof/Machine/State.lean ====
section
/-! DEFINITION. Every piece of state the spec gives the block (10_state.md), as plain data, and the state after reset. -/

namespace Sys2Proof.Machine

/-- The command latch and parameter buffer (R35, R36). -/
structure Latch where
  command : Byte
  entry : Option Command
  paramExpected : Nat
  paramReceived : Nat
  params : Vector Byte 16
deriving DecidableEq, Repr

/-- The control registers (R37 to R46). -/
structure Control where
  select : Vector Bool 2
  driveOut : Byte
  driveIn : Byte
  mode : Byte
  scanSector : Byte
  scanCount : BitVec 16
  currentTrack : Vector Byte 2
  badTrack : Vector (Vector Byte 2) 2
  stepRate : Byte
  headSettle : Byte
  indexCount : BitVec 4
  headLoad : BitVec 4
deriving DecidableEq, Repr

/-- The transfer state (R50). -/
structure Transfer where
  trackAddr : Byte
  sectorId : Byte
  requestedLength : Nat
  sectorLength : Nat
  sectorsToGo : Int
  curTrack : Option TrackAddr
  curSector : Option Nat
  byteIndex : Nat
  firstWriteInterrupt : Bool
  nextInterruptIsErr : Byte
deriving DecidableEq, Repr

/-- The positioning state (R55), shared by both drives. `physicalTrack` lies in [0, 79] by its type (R57). -/
structure Positioning where
  physicalTrack : Fin 80
  logicalTrack : Byte
  positionInTrack : Nat
  usingSpecial : Bool
  drdsc : Nat
  sectorOverRead : Bool
deriving DecidableEq, Repr

/-- The scheduler and motor state (R60 to R63); a trigger of `none` is NEVER. -/
structure Scheduler where
  trigger : Option Nat
  unloadPending : Bool
  motorLoaded : Bool
  headPosition : Vector Nat 2
deriving DecidableEq, Repr

/-- The parameters of R8 that switch behaviour, fixed for a run (R256, R325, R212; log 7). -/
structure Straps where
  fdcEnabled : Bool
  motorModelEnabled : Bool
  unsupportedParams : UnsupportedParams
deriving DecidableEq, Repr

/-- The state of the block and of what it is connected to. The last four fields are the model's own: the cycle of the
host call being made (R11), the host calls still to come (log 1), the value the last register read returned to the
host (R251 to R254, log 6), and the counter the free values are read with (log 9). -/
structure State where
  status : Byte
  result : Byte
  data : Byte
  latch : Latch
  ctrl : Control
  xfer : Transfer
  pos : Positioning
  sched : Scheduler
  disc : Vector Disc 2
  backing : Vector File 2
  firstResetDone : Bool
  misuse : Bool
  cfg : Straps
  now : Nat
  host : List HostCall
  returned : Byte
  draws : Nat
deriving DecidableEq, Repr

/-- Why the machine would stop with a fault. There is no such reason: no command byte traps or faults (R211, R215),
the block has no traps (R620), and what the spec calls misuse sets the `misuse` flag and runs on (R75, log 11). -/
inductive Fault where
deriving DecidableEq, Repr

/-- Why a host call is refused. -/
inductive Refusal where
  /-- An instruction without a meaning in this model: raised by `exec`'s refused arms, of which there are none. Safe. -/
  | notModelled (mnemonic : String)
  /-- Raised by `step`: the mnemonic form is no instruction of R202 and R230. Safe: nothing is run. -/
  | malformedCommand (why : DecodeError)
deriving DecidableEq, Repr

/-- The transfer state after reset (R50, R700). -/
def idleTransfer : Transfer :=
  { trackAddr := 0, sectorId := 0, requestedLength := 0, sectorLength := 0, sectorsToGo := 0, curTrack := none,
    curSector := none, byteIndex := 0, firstWriteInterrupt := false, nextInterruptIsErr := 0x00 }

/-- The control registers after reset: R80, with the "Acorn defaults" of R46 and the bad tracks of R45. -/
def resetControl : Control :=
  { select := #v[false, false], driveOut := 0x00, driveIn := 0x00, mode := 0x00, scanSector := 0x00,
    scanCount := 0x0000, currentTrack := #v[0x00, 0x00], badTrack := #v[#v[0xFF, 0xFF], #v[0xFF, 0xFF]],
    stepRate := 12, headSettle := 10, indexCount := 12, headLoad := 8 }

/-- The parameters' values where the spec gives one or a default (R8, R212). -/
def defaultStraps : Straps :=
  { fdcEnabled := true, motorModelEnabled := true, unsupportedParams := defaultUnsupportedParams }

/-- The block at power-on, before the first reset (R80, R704, D19). The disc model's content is unspecified until the
first reset (R70), so it is an argument. -/
def State.powerOn (discs : Vector Disc 2) : State :=
  { status := 0x00, result := 0x00, data := 0x00,
    latch := { command := 0x00, entry := none, paramExpected := 0, paramReceived := 0, params := Vector.replicate 16 0x00 },
    ctrl := { select := #v[false, false], driveOut := 0x00, driveIn := 0x00, mode := 0x00, scanSector := 0x00,
              scanCount := 0x0000, currentTrack := #v[0x00, 0x00], badTrack := #v[#v[0x00, 0x00], #v[0x00, 0x00]],
              stepRate := 0, headSettle := 0, indexCount := 0, headLoad := 0 },
    xfer := idleTransfer,
    pos := { physicalTrack := 0, logicalTrack := 0, positionInTrack := 0, usingSpecial := false, drdsc := 0,
             sectorOverRead := false },
    sched := { trigger := none, unloadPending := false, motorLoaded := false, headPosition := #v[0, 0] },
    disc := discs, backing := #v[emptyFile, emptyFile], firstResetDone := false, misuse := false,
    cfg := defaultStraps, now := 0, host := [], returned := 0x00, draws := 0 }

/-- The machine right after the first reset (R80, R700, R704): the column "after reset" of R80, and where reset keeps
a field the column "power-on". -/
def State.reset : State :=
  { status := 0x00, result := 0x00, data := 0x00,
    latch := { command := 0x00, entry := none, paramExpected := 0, paramReceived := 0, params := Vector.replicate 16 0x00 },
    ctrl := resetControl,
    xfer := idleTransfer,
    pos := { physicalTrack := 0, logicalTrack := 0, positionInTrack := 0, usingSpecial := false, drdsc := 0,
             sectorOverRead := false },
    sched := { trigger := none, unloadPending := false, motorLoaded := false, headPosition := #v[0, 0] },
    disc := #v[emptyDisc, emptyDisc], backing := #v[emptyFile, emptyFile], firstResetDone := true, misuse := false,
    cfg := defaultStraps, now := 0, host := [], returned := 0x00, draws := 0 }

end Sys2Proof.Machine
end

