-- ==== Sys2Proof/Machine/Flags.lean ====
section
/-! DEFINITION. The status register (10_state.md R31): its bits, the values the rules write, the masks. -/

namespace Sys2Proof.Machine

/-- `command_busy`, bit 7 (R31). -/
def commandBusy (status : Byte) : Bool := status.getLsbD 7
/-- `result_full`, bit 4 (R31). -/
def resultFull (status : Byte) : Bool := status.getLsbD 4
/-- `interrupt_request`, bit 3 (R31). -/
def interruptRequest (status : Byte) : Bool := status.getLsbD 3
/-- `non_dma_mode`, bit 2 (R31). -/
def nonDmaMode (status : Byte) : Bool := status.getLsbD 2

/-- The bits no rule ever sets, 6, 5, 1 and 0 (R31). -/
def statusReserved : Byte := 0x63

/-- The status a setup that starts work writes, and a write or format before its writeback (R350, R402). -/
def statusWorking : Byte := 0x80
/-- The status of a byte tick: `command_busy`, `interrupt_request`, `non_dma_mode` (R354). -/
def statusByte : Byte := 0x8C
/-- The terminal status: `statusByte` and `result_full` (R354). -/
def statusTerminal : Byte := 0x9C
/-- The status of a command that is over: `result_full` and `interrupt_request` (R311, R355). -/
def statusOver : Byte := 0x18

/-- A command write sets `command_busy` and `result_full` (R262). -/
def statusLatched (status : Byte) : Byte := status ||| 0x90
/-- The mask a zero-parameter command write applies; it clears bits 7 and 0 (R263, C1). -/
def statusImmediate (status : Byte) : Byte := status &&& 0x7E
/-- A parameter write clears bit 0 (R264). -/
def statusParam (status : Byte) : Byte := status &&& 0xFE
/-- The last parameter write clears `command_busy` (R265). -/
def statusLastParam (status : Byte) : Byte := status &&& 0x7F
/-- Reading `result` clears `result_full` and `interrupt_request` (R252). -/
def statusResultRead (status : Byte) : Byte := status &&& 0xE7
/-- Reading or writing `data` clears `interrupt_request` and `non_dma_mode` (R253, R267). -/
def statusDataAccess (status : Byte) : Byte := status &&& 0xF3
/-- A tick that is no motor step sets `interrupt_request` (R305 step 3). -/
def statusInterrupt (status : Byte) : Byte := status ||| 0x08

/-- The host NMI line: a level equal to `interrupt_request` (R34, R610, D4). -/
def State.nmi (s : State) : Bool := interruptRequest s.status

end Sys2Proof.Machine
end

