-- ==== Sys2Proof/Machine/Memory.lean ====
section
/-! DEFINITION. The named operations over memory: one byte read, one byte written, runs of bytes, and the canonical
form they keep. -/

namespace Sys2Proof.Machine

/-- The byte at an address; an unlisted address reads 0x00 (the zero fill of R130 and R140; log 13). -/
def Memory.read : Memory → Nat → Byte
  | [], _ => 0x00
  | (b, v) :: m, a => if a = b then v else Memory.read m a

/-- Store one byte and keep the canonical form: storing 0x00 removes the entry. -/
def Memory.write : Memory → Nat → Byte → Memory
  | [], a, v => if v = 0x00 then [] else [(a, v)]
  | (b, w) :: m, a, v =>
    if a < b then (if v = 0x00 then (b, w) :: m else (a, v) :: (b, w) :: m)
    else if a = b then (if v = 0x00 then m else (a, v) :: m)
    else (b, w) :: Memory.write m a v

/-- The canonical form: addresses strictly rising, no entry that reads as an unlisted address does. -/
def Memory.wf (m : Memory) : Bool :=
  decide (List.Pairwise (fun x y => x.1 < y.1) m) && m.all (fun c => decide (c.2 ≠ 0x00))

/-- Every listed address lies below `n`. -/
def Memory.below (m : Memory) (n : Nat) : Bool := m.all (fun c => decide (c.1 < n))

/-- A memory that holds the given bytes from an address on, and 0x00 elsewhere. -/
def Memory.ofBytes : Nat → List Byte → Memory
  | _, [] => []
  | a, v :: vs => if v = 0x00 then Memory.ofBytes (a + 1) vs else (a, v) :: Memory.ofBytes (a + 1) vs

/-- Store a run of bytes in ascending order (R150). -/
def Memory.writeBytes : Memory → Nat → List Byte → Memory
  | m, _, [] => m
  | m, a, v :: vs => Memory.writeBytes (Memory.write m a v) (a + 1) vs

/-- The `n` bytes from address `a` on. -/
def Memory.bytesAt (m : Memory) (a n : Nat) : List Byte := (List.range n).map (fun k => Memory.read m (a + k))

/-- A file of the given bytes. -/
def File.ofBytes (bs : List Byte) : File := { length := bs.length, bytes := Memory.ofBytes 0 bs }

/-- `FileWrite` when it succeeds (R140): the file is extended with zero bytes if required and then holds `bs` from
`off` on. -/
def File.write (f : File) (off : Nat) (bs : List Byte) : File :=
  { length := max f.length (off + bs.length), bytes := Memory.writeBytes f.bytes off bs }

/-- A file in canonical form: no listed byte at or past its end. -/
def File.wf (f : File) : Bool := Memory.wf f.bytes && Memory.below f.bytes f.length

end Sys2Proof.Machine
end

