-- ==== Sys2Proof/Machine/Operands.lean ====
section
/-! DEFINITION. The operand forms: select bits, size/count bytes, counts, Specify selectors, special-register numbers
(30_encoding.md R201 to R206, R220, R225). -/

namespace Sys2Proof.Machine

/-- The two select flags a command byte or an output-port value carries: bit 6 for drive 0, bit 7 for drive 1 (R261,
R531). -/
def selectFlags (v : Byte) : Vector Bool 2 := #v[v.getLsbD 6, v.getLsbD 7]

/-- The size code, bits 7 to 5 of a size/count byte (R203). -/
def sizeCode (v : Byte) : Nat := v.toNat / 32
/-- The sector count, bits 4 to 0 of a size/count byte (R203). -/
def sectorCount (v : Byte) : Nat := v.toNat % 32
/-- The requested length, 128 to 16384 bytes (R203, R225). -/
def requestedLength (v : Byte) : Nat := 2 ^ (7 + sizeCode v)

/-- Read ID's count: the whole byte, 0 meaning 32 (R205). -/
def idFieldCount (v : Byte) : Nat := if v = 0x00 then 32 else v.toNat

/-- `SizeOf` of an ID field's size code, undefined above 4 (R111). -/
def sizeOfCode (c : Byte) : Option Nat := if c.toNat ≤ 4 then some (128 * 2 ^ c.toNat) else none

/-- The physical track of a track parameter (R349, R480). -/
def clampTrack (t : Byte) : Fin 80 := ⟨min t.toNat 79, by omega⟩

/-- What Specify's selector asks for (R206). -/
inductive SpecifyKind where
  | timing
  | surface (u : Fin 2)
  | other
deriving DecidableEq, Repr

/-- The Specify selector (R206, R512). -/
def specifyKind (p0 : Byte) : SpecifyKind :=
  if p0 = 0x0D then .timing
  else if p0 = 0x10 then .surface 0
  else if p0 = 0x18 then .surface 1
  else .other

/-- The named special registers (R220). -/
inductive SpecialReg where
  | scanSector
  | badTrack (surface slot : Fin 2)
  | currentTrack (surface : Fin 2)
  | scanCountLow
  | scanCountHigh
  | mode
  | driveIn
  | driveOut
deriving DecidableEq, Repr

/-- The special-register map (R220); a number outside it names none (R215). -/
def specialReg (r : Byte) : Option SpecialReg :=
  if r = 0x06 then some .scanSector
  else if r = 0x10 then some (.badTrack 0 0)
  else if r = 0x11 then some (.badTrack 0 1)
  else if r = 0x12 then some (.currentTrack 0)
  else if r = 0x13 then some .scanCountLow
  else if r = 0x14 then some .scanCountHigh
  else if r = 0x17 then some .mode
  else if r = 0x18 then some (.badTrack 1 0)
  else if r = 0x19 then some (.badTrack 1 1)
  else if r = 0x1A then some (.currentTrack 1)
  else if r = 0x22 then some .driveIn
  else if r = 0x23 then some .driveOut
  else none

end Sys2Proof.Machine
end

