-- ==== Sys2Proof/Machine/Ops.lean ====
section
/-! DEFINITION. The operations the instructions share: the scheduler primitives, raising and posting a command error
(the block's exceptions), drive and head selection, the disc model's accesses and lookups, the writeback. -/

namespace Sys2Proof.Machine

/-! The scheduler primitives (41_scheduler.md R300 to R304). -/

/-- `Arm(delay)` (R301): one event is armed at a time, and arming replaces it. -/
def arm (delay : Nat) (s : State) : State :=
  { s with sched := { s.sched with trigger := some (s.now + delay), unloadPending := false } }

/-- `ArmUnload()` (R302). -/
def armUnload (s : State) : State :=
  { s with sched := { s.sched with trigger := some (s.now + Config.unloadDelay), unloadPending := true } }

/-- `ClearTrigger()` (R303): `unload_pending` is kept. -/
def clearTrigger (s : State) : State := { s with sched := { s.sched with trigger := none } }

/-- `ScheduleUnload()` (R304): only with the motor loaded and no event armed. -/
def scheduleUnload (s : State) : State :=
  if s.sched.motorLoaded && s.sched.trigger.isNone then armUnload s else s

/-- `Busy(s)` (R76). -/
def busy (s : State) : Bool := commandBusy s.status || (s.sched.trigger.isSome && !s.sched.unloadPending)

/-! The exceptions: a command error is raised into the deferred channel and posted by a later tick. -/

/-- `raise CommandError(code)` (R310): the code waits in `next_interrupt_is_err` for a tick `SHORT_DELAY` later;
`status` and `result` are left alone. -/
def raiseError (code : Byte) (s : State) : State :=
  arm Config.shortDelay { s with xfer := { s.xfer with nextInterruptIsErr := code } }

/-- Whether a deferred code is an error to post: not one of success, data CRC and deleted found (R305 step 4, R312). -/
def isPending (code : Byte) : Bool := !(code == 0x00 || code == 0x0E || code == 0x20)

/-- `PostDeferred(e)` (R311): the error becomes the command's final result. -/
def postDeferred (e : Byte) (s : State) : State :=
  { s with result := e, status := statusOver, xfer := { s.xfer with nextInterruptIsErr := 0x00 } }

/-- Drive not ready (R600). -/
def errNotReady : Byte := 0x10
/-- Write protect (R600). -/
def errWriteProtect : Byte := 0x12
/-- Sector not found (R600). -/
def errSectorNotFound : Byte := 0x18
/-- Drive not present (R600). -/
def errNotPresent : Byte := 0x1E

/-! Selection. -/

/-- `SelDrive()` (R37): if both flags are set, drive 0 wins. -/
def selDrive (s : State) : Option (Fin 2) :=
  if s.ctrl.select[0] then some 0 else if s.ctrl.select[1] then some 1 else none

/-- `SelHead()` (R38): bit 5 of the output port. -/
def selHead (s : State) : Fin 2 := if s.ctrl.driveOut.getLsbD 5 then 1 else 0

/-! The disc model. -/

/-- The track at an address. -/
def trackAt (s : State) (a : TrackAddr) : Track := s.disc[a.drive].tracks[a.head][a.track]

/-- A disc with one track replaced. -/
def Disc.setTrack (d : Disc) (head : Fin 2) (track : Fin 80) (tr : Track) : Disc :=
  { d with tracks := d.tracks.set head (d.tracks[head].set track tr) }

/-- The state with one track replaced. -/
def setTrack (s : State) (a : TrackAddr) (tr : Track) : State :=
  { s with disc := s.disc.set a.drive (s.disc[a.drive].setTrack a.head a.track tr) }

/-- The sector at an index, if it exists (R101: `i < n_sectors`). -/
def Track.sectorAt (tr : Track) (i : Nat) : Option Sector := if i < tr.nSectors then tr.sectors[i]? else none

/-- A track with the sector at an index replaced. -/
def Track.setSector (tr : Track) (i : Nat) (sec : Sector) : Track := { tr with sectors := tr.sectors.set i sec }

/-- `MemRead` (R101): the byte, if it exists. -/
def discRead (s : State) (a : ByteAddr) : Option Byte :=
  match (trackAt s a.track).sectorAt a.sector with
  | some sec => if a.offset < sec.realSize then some (Memory.read sec.data a.offset) else none
  | none => none

/-- `MemWrite` (R101) to a byte that exists; a byte that does not exist is not written. -/
def discWrite (s : State) (a : ByteAddr) (v : Byte) : State :=
  match (trackAt s a.track).sectorAt a.sector with
  | some sec =>
    if a.offset < sec.realSize then
      setTrack s a.track ((trackAt s a.track).setSector a.sector { sec with data := Memory.write sec.data a.offset v })
    else s
  | none => s

/-- Overwrite the whole buffer of a sector that exists (R422); one that does not exist has no buffer. -/
def discFill (s : State) (t : TrackAddr) (i : Nat) (v : Byte) : State :=
  match (trackAt s t).sectorAt i with
  | some sec =>
    setTrack s t ((trackAt s t).setSector i { sec with data := Memory.ofBytes 0 (List.replicate sec.realSize v) })
  | none => s

/-! What a tick works on: `cur_track`, `cur_sector` and `byte_index` as indices into the disc model (R51). After host
misuse they may name nothing; what the running command then does is unspecified (R722), so a free value stands in for
each thing that is missing (log 11). -/

/-- The track a tick works on. -/
def workTrack (s : State) : TrackAddr := s.xfer.curTrack.getD (Config.lostTrack s.draws)

/-- The sector index a tick works on. -/
def workSector (s : State) : Nat := s.xfer.curSector.getD (Config.lostIndex s.draws)

/-- The sector a tick works on. -/
def currentSector (s : State) : Sector :=
  ((trackAt s (workTrack s)).sectorAt (workSector s)).getD (Config.lostSector s.draws)

/-- The address of the byte a tick works on. -/
def workByte (s : State) : ByteAddr := ⟨workTrack s, workSector s, s.xfer.byteIndex⟩

/-- The byte a read tick reads (R354). -/
def currentByte (s : State) : Byte := (discRead s (workByte s)).getD (Config.lostByte s.draws)

/-- Where a write tick stores (R402): the current byte if it exists; otherwise a free place, or nowhere (log 11). -/
def storeAddress (s : State) : Option ByteAddr :=
  if (discRead s (workByte s)).isSome then some (workByte s) else Config.lostStore s.draws

/-- The sector a format tick fills (R422): the current one if it exists; otherwise a free one, or none (log 11). -/
def fillAddress (s : State) : Option (TrackAddr × Nat) :=
  if ((trackAt s (workTrack s)).sectorAt (workSector s)).isSome then some (workTrack s, workSector s)
  else (Config.lostStore s.draws).map (fun a => (a.track, a.sector))

/-- One position further round a track of `n` sectors (R123, R225: modulo `n_sectors`). -/
def nextPosition (s : State) (r n : Nat) : Nat := if n = 0 then Config.lostPosition s.draws else (r + 1) % n

/-! Track and sector resolution (20_memory.md R120, R121; 42_read.md R349). -/

/-- `ResolveTrack(T)` (R349). -/
def resolveTrack (t : Byte) (s : State) : State :=
  { s with pos :=
      { s.pos with
        physicalTrack :=
          if 1 < s.pos.drdsc then 0 else if s.pos.usingSpecial then s.pos.physicalTrack else clampTrack t
        positionInTrack := if t = s.pos.logicalTrack then s.pos.positionInTrack else 0
        logicalTrack := t
        drdsc := 0 } }

/-- The two-track window of R120: the physical track and the next one, none above 79. -/
def trackWindow (p : Fin 80) : List (Fin 80) := p :: (if h : p.val + 1 < 80 then [⟨p.val + 1, h⟩] else [])

/-- Whether a track answers to a logical track number: its first sector's ID carries it (R120). -/
def Track.answersTo (tr : Track) (t : Byte) : Bool :=
  match tr.sectorAt 0 with
  | some sec => sec.id.track == t
  | none => false

/-- `GetTrackForLogical(d, h, T)` (R120), less its write of `physical_track`, which the caller makes. -/
def findTrack (s : State) (d h : Fin 2) (t : Byte) : Option (Fin 80) :=
  (trackWindow s.pos.physicalTrack).find? (fun p => (trackAt s ⟨d, h, p⟩).answersTo t)

/-- The order in which R121 scans a track of `n` sectors from position `p`. -/
def scanOrder (p n : Nat) : List Nat := List.range' p (n - p) ++ List.range (min p n)

/-- Whether the sector at an index has a logical sector ID. -/
def Track.hasIdAt (tr : Track) (x : Byte) (i : Nat) : Bool :=
  match tr.sectorAt i with
  | some sec => sec.id.sector == x
  | none => false

/-- `GetSectorById(tr, X)` from a position (R121), less its write of `position_in_track`, which the caller makes: the
record number of the first match. -/
def findSector (tr : Track) (x : Byte) (p : Nat) : Option Nat :=
  match (scanOrder p tr.nSectors).find? (fun i => tr.hasIdAt x i) with
  | some i => (tr.sectorAt i).map (fun sec => sec.record)
  | none => none

/-- `SetSectorLength()` (R351): the length is clamped to the current sector's, and a clamp is an over-read. -/
def setSectorLength (s : State) : State :=
  { s with
    xfer := { s.xfer with sectorLength := min s.xfer.requestedLength (currentSector s).realSize }
    pos := { s.pos with sectorOverRead := decide ((currentSector s).realSize < s.xfer.requestedLength) } }

/-- The position and the transfer are at record `r`, byte 0 (R121, R350, R354). -/
def toSector (r : Nat) (s : State) : State :=
  { s with
    pos := { s.pos with positionInTrack := r }
    xfer := { s.xfer with curSector := some r, byteIndex := 0 } }

/-- A sector found at record `r` becomes the current one (R350, R354). -/
def beginSector (r : Nat) (s : State) : State := setSectorLength (toSector r s)

/-- Every setup that can start work writes this status before its first check (R350, R421, R450, R480, D2). -/
def startWork (s : State) : State := { s with status := statusWorking }

/-- The head is at the track found (R120). -/
def headTo (p : Fin 80) (s : State) : State := { s with pos := { s.pos with physicalTrack := p } }

/-- A sector command's operands enter the transfer state (R350, R203). -/
def takeOperands (t sec v : Byte) (s : State) : State :=
  { s with
    xfer := { s.xfer with
      trackAddr := t
      sectorId := sec
      requestedLength := requestedLength v
      sectorsToGo := (sectorCount v : Int) } }

/-- The command works on a track (R350, R450). -/
def onTrack (a : TrackAddr) (s : State) : State := { s with xfer := { s.xfer with curTrack := some a } }

/-- The last check of `SectorSetup` (R350): the first sector. -/
def findFirstSector (a : TrackAddr) (sec : Byte) (s : State) : Except State State :=
  match findSector (trackAt s a) sec s.pos.positionInTrack with
  | none => .error (raiseError errSectorNotFound s)
  | some r => .ok (beginSector r (onTrack a s))

/-- `SectorSetup` from the drive on (R350): the track, its `readable` flag, the operands, the first sector. -/
def setupOnDrive (d : Fin 2) (t sec v : Byte) (s : State) : Except State State :=
  match findTrack s d (selHead s) t with
  | none => .error (raiseError errSectorNotFound s)
  | some p =>
    if (trackAt s ⟨d, selHead s, p⟩).readable then
      findFirstSector ⟨d, selHead s, p⟩ sec (takeOperands t sec v (headTo p s))
    else .error (raiseError errSectorNotFound (headTo p s))

/-- `SectorSetup(T, S, v, need_writable)` (R350). An error answer is the state after the raise that ended it. -/
def sectorSetup (t sec v : Byte) (needWritable : Bool) (s : State) : Except State State :=
  match selDrive s with
  | none => .error (raiseError errNotReady (startWork s))
  | some d =>
    if needWritable && !s.disc[d].writable then .error (raiseError errWriteProtect (startWork s))
    else setupOnDrive d t sec v (resolveTrack t (startWork s))

/-! Steps every transfer handler shares. -/

/-- `FinalTick()` (R355). -/
def finalTick (s : State) : State := { s with status := statusOver }

/-- The terminal status, the "final tick pending" mark and the final tick's arming (R354, R402, R422, R452). -/
def endTransfer (s : State) : State :=
  arm Config.byteTime { s with status := statusTerminal, xfer := { s.xfer with sectorsToGo := -1 } }

/-- The current sector is done: the position moves one past it and the count goes down (R354, R402). -/
def passSector (s : State) : State :=
  { s with
    pos := { s.pos with positionInTrack := nextPosition s (workSector s) (trackAt s (workTrack s)).nSectors }
    xfer := { s.xfer with sectorsToGo := s.xfer.sectorsToGo - 1 } }

/-- The next logical sector ID, modulo 256 (R225, R354, D10). -/
def nextId (s : State) : State := { s with xfer := { s.xfer with sectorId := s.xfer.sectorId + 1 } }

/-- The next sector of a multi-sector command is the one with the next logical ID on the same track (R354, R402,
D10); none such raises 0x18 (D54). -/
def nextSector (s : State) : State :=
  match findSector (trackAt s (workTrack s)) (s.xfer.sectorId + 1) s.pos.positionInTrack with
  | none => raiseError errSectorNotFound (nextId s)
  | some r => arm Config.byteTime (beginSector r (nextId s))

/-! The track writeback (20_memory.md R140 to R142). -/

/-- `TrackOffset(d, h, t)` (R141). -/
def trackOffset (headsCode : Fin 3) (h t : Nat) : Nat :=
  if headsCode.val = 0 then (t + 80 * h) * Config.trackBytes else (headsCode.val * t + h) * Config.trackBytes

/-- The first ten sectors of a track, if they all exist (R142). -/
def firstTen (tr : Track) : Option (List Sector) :=
  if tr.nSectors < 10 then none
  else if 10 ≤ tr.sectors.length then some (tr.sectors.take 10) else none

/-- The 2560 bytes a writeback writes, or none where R142 refuses before any file access. -/
def writebackBytes (d : Disc) (tr : Track) : Option (List Byte) :=
  if d.kind = .fsd ∨ d.path = "" then none
  else match firstTen tr with
    | none => none
    | some secs =>
      if secs.all (fun sec => decide (256 ≤ sec.realSize)) then
        some (secs.flatMap (fun sec => Memory.bytesAt sec.data 0 256))
      else none

/-- The state with a drive's backing image replaced. -/
def setBacking (s : State) (d : Fin 2) (f : File) : State := { s with backing := s.backing.set d f }

/-- The backing image after a successful writeback of a track's bytes (R140, R141). -/
def writtenFile (s : State) (a : TrackAddr) (bs : List Byte) : File :=
  File.write s.backing[a.drive] (trackOffset s.disc[a.drive].headsCode a.head.val a.track.val) bs

/-- `Writeback(d, h, t)` (R142): whether it succeeded, and the state with the backing image it leaves. A failed file
access leaves the file's content unspecified (R140, log 10). -/
def writeback (a : TrackAddr) (s : State) : Bool × State :=
  match writebackBytes s.disc[a.drive] (trackAt s a) with
  | none => (false, s)
  | some bs =>
    if Config.writebackOk s.draws then (true, setBacking s a.drive (writtenFile s a bs))
    else (false, setBacking s a.drive (File.ofBytes (Config.failedFile s.draws)))

/-- The end of Write Data and Format (R402, R403, R422): write the track back, then end the command, or fail with
write protect. -/
def finishWithWriteback (s : State) : State :=
  match writeback (workTrack s) (startWork s) with
  | (true, s1) => endTransfer { s1 with result := 0x00 }
  | (false, s1) => raiseError errWriteProtect s1

end Sys2Proof.Machine
end

