-- ==== Sys2Proof/Machine/Shell.lean ====
section
/-! DEFINITION. The shell's operations on the drives: the SSD, DSD and FSD loaders, ejecting, the writable flag
(20_memory.md R130 to R133; 70_reset_and_hazards.md R720 to R722). They are host calls, not instructions. -/

namespace Sys2Proof.Machine

/-- One sector of a raw image track (R130, R131): 256 bytes from `base + 256 * i`, zero fill past the end of the file. -/
def rawSector (t h : Nat) (bytes : List Byte) (base i : Nat) : Sector :=
  { id := ⟨BitVec.ofNat 8 t, BitVec.ofNat 8 h, BitVec.ofNat 8 i, 0x01⟩
    pcyl := t, record := i, idSize := 256, realSize := 256, error := 0x00
    data := Memory.ofBytes 0 ((bytes.drop (base + 256 * i)).take 256) }

/-- `Track10(t, h, bytes, base)` (R130). -/
def rawTrack (t h : Nat) (bytes : List Byte) (base : Nat) : Track :=
  { readable := true, logicalSectors := 10, nSectors := 10, gaps := (0, 0, 0)
    sectors := (List.range 10).map (rawSector t h bytes base) }

/-- Put a list of tracks on a head, from physical track `t` up; what would stand above track 79 is dropped. -/
def placeTracks : Vector Track 80 → Nat → List Track → Vector Track 80
  | v, _, [] => v
  | v, t, tr :: trs => placeTracks (v.setIfInBounds t tr) (t + 1) trs

/-- A head of empty tracks but for the given ones, from physical track 0 up. -/
def headOf (trs : List Track) : Vector Track 80 := placeTracks (Vector.replicate 80 emptyTrack) 0 trs

/-- The 80 tracks of one head of a raw image, track `t` at file offset `base t` (R130, R131). -/
def rawHead (h : Nat) (bytes : List Byte) (base : Nat → Nat) : Vector Track 80 :=
  headOf ((List.range 80).map (fun t => rawTrack t h bytes (base t)))

/-- The disc `LoadSSD` makes (R130). -/
def ssdDisc (bytes : List Byte) (path : String) (writable : Bool) : Disc :=
  if Config.ssdDoubleThreshold < bytes.length then
    { path := path, kind := .ssd, writable := writable, headsCode := 0, totalTracks := 0
      tracks := #v[rawHead 0 bytes (fun t => t * Config.trackBytes),
                   rawHead 1 bytes (fun t => (t + 80) * Config.trackBytes)] }
  else
    { path := path, kind := .ssd, writable := writable, headsCode := 1, totalTracks := 0
      tracks := #v[rawHead 0 bytes (fun t => t * Config.trackBytes), headOf []] }

/-- The disc `LoadDSD` makes (R131). -/
def dsdDisc (bytes : List Byte) (path : String) (writable : Bool) : Disc :=
  { path := path, kind := .dsd, writable := writable, headsCode := 2, totalTracks := 0
    tracks := #v[rawHead 0 bytes (fun t => (2 * t) * Config.trackBytes),
                 rawHead 1 bytes (fun t => (2 * t + 1) * Config.trackBytes)] }

/-! The FSD loader (R132): each parser answers what it read and the rest of the bytes, or none where the load fails
(a size code above 4, or the end of the file). -/

/-- Exactly `n` bytes. -/
def takeBytes (n : Nat) (bs : List Byte) : Option (List Byte × List Byte) :=
  if n ≤ bs.length then some (bs.take n, bs.drop n) else none

/-- The null-terminated title: the bytes after its null. -/
def skipTitle : List Byte → Option (List Byte)
  | [] => none
  | c :: bs => if c = 0x00 then some bs else skipTitle bs

/-- One sector of an FSD track, number `k` of physical track `t`; `stored` says that the track carries data. -/
def fsdSector (t k : Nat) (stored : Bool) (bs : List Byte) : Option (Sector × List Byte) :=
  match bs with
  | lt :: hd :: ls :: dc :: rest =>
    match sizeOfCode dc with
    | none => none
    | some idSize =>
      if stored then
        match rest with
        | rc :: err :: rest2 =>
          match sizeOfCode rc with
          | none => none
          | some real =>
            match takeBytes real rest2 with
            | none => none
            | some (buf, rest3) =>
              some ({ id := ⟨lt, hd, ls, dc⟩, pcyl := t, record := k, idSize := idSize, realSize := real,
                      error := err, data := Memory.ofBytes 0 buf }, rest3)
        | _ => none
      else
        some ({ id := ⟨lt, hd, ls, dc⟩, pcyl := t, record := k, idSize := idSize, realSize := 0,
                error := 0x00, data := [] }, rest)
  | _ => none

/-- `n` sectors from number `k` on. -/
def fsdSectors (t : Nat) (stored : Bool) : Nat → Nat → List Byte → Option (List Sector × List Byte)
  | 0, _, bs => some ([], bs)
  | n + 1, k, bs =>
    match fsdSector t k stored bs with
    | none => none
    | some (sec, rest) =>
      match fsdSectors t stored n (k + 1) rest with
      | none => none
      | some (secs, rest2) => some (sec :: secs, rest2)

/-- One FSD track: its track-id byte is ignored (D33); a sector count of 0 is an empty track. -/
def fsdTrack (t : Nat) (bs : List Byte) : Option (Track × List Byte) :=
  match bs with
  | _ :: count :: rest =>
    if count = 0x00 then some (emptyTrack, rest)
    else
      match rest with
      | rd :: rest2 =>
        match fsdSectors t (rd == 0xFF) count.toNat 0 rest2 with
        | none => none
        | some (secs, rest3) =>
          some ({ readable := rd == 0xFF, logicalSectors := count.toNat, nSectors := count.toNat, gaps := (0, 0, 0),
                  sectors := secs }, rest3)
      | [] => none
  | _ => none

/-- `n` FSD tracks from physical track `t` on. -/
def fsdTracks : Nat → Nat → List Byte → Option (List Track)
  | 0, _, _ => some []
  | n + 1, t, bs =>
    match fsdTrack t bs with
    | none => none
    | some (tr, rest) => (fsdTracks n (t + 1) rest).map (fun trs => tr :: trs)

/-- The disc `LoadFSD` makes, or none where the load fails (R132, D33): header skipped, title skipped, the last track
number at most 40, every track on head 0, not writable. -/
def fsdDisc (bytes : List Byte) (path : String) : Option Disc :=
  match skipTitle (bytes.drop 8) with
  | some (last :: rest) =>
    if Config.fsdMaxLastTrack < last.toNat then none
    else
      match fsdTracks (last.toNat + 1) 0 rest with
      | none => none
      | some trs =>
        some { path := path, kind := .fsd, writable := false, headsCode := 1, totalTracks := last.toNat + 1
               tracks := #v[headOf trs, headOf []] }
  | _ => none

/-- Replace a drive's disc and backing image (log 14); doing so while busy is misuse (R133, R722). -/
def mount (d : Fin 2) (disc : Disc) (file : File) (s : State) : State :=
  { s with disc := s.disc.set d disc, backing := s.backing.set d file, misuse := s.misuse || busy s }

/-- Ejecting a disc, or a load that fails, leaves the drive empty (R133). -/
def unmount (d : Fin 2) (s : State) : State := mount d emptyDisc emptyFile s

/-- The shell changes a disc's writable flag (R720 to R722). -/
def setWritable (d : Fin 2) (w : Bool) (s : State) : State :=
  { s with disc := s.disc.set d { s.disc[d] with writable := w }, misuse := s.misuse || busy s }

/-- A shell operation (R720). -/
def runShell (op : ShellOp) (s : State) : State :=
  match op with
  | .loadSSD d bytes path w => mount d (ssdDisc bytes path w) (File.ofBytes bytes) s
  | .loadDSD d bytes path w => mount d (dsdDisc bytes path w) (File.ofBytes bytes) s
  | .loadFSD d bytes path =>
    match fsdDisc bytes path with
    | some disc => mount d disc (File.ofBytes bytes) s
    | none => unmount d s
  | .eject d => unmount d s
  | .setWritable d w => setWritable d w s

end Sys2Proof.Machine
end

