-- ==== Sys2Proof/Machine/IdVerifySeek.lean ====
section
/-! DEFINITION. Read ID's, Verify's and Seek's handlers (44_id_verify_seek.md R450 to R480). -/

namespace Sys2Proof.Machine

/-- Read ID's operands enter the transfer state (R450). -/
def startReadId (t n : Byte) (s : State) : State :=
  { s with xfer := { s.xfer with trackAddr := t, sectorsToGo := (idFieldCount n : Int), byteIndex := 0 } }

/-- `ReadIDSetup` from the drive on (R450). -/
def readIdOnDrive (d : Fin 2) (t n : Byte) (s : State) : State :=
  match findTrack s d (selHead s) t with
  | none => raiseError errSectorNotFound s
  | some p => arm Config.byteTime (onTrack ⟨d, selHead s, p⟩ (startReadId t n (headTo p s)))

/-- `ReadIDSetup()` (R450). -/
def readIdSetup (s : State) : State :=
  match selDrive s with
  | none => raiseError errNotReady (startWork s)
  | some d => readIdOnDrive d s.latch.params[0] s.latch.params[2] (resolveTrack s.latch.params[0] (startWork s))

/-- `GetSectorForReadId(tr)` (R122): the index `position_in_track mod n_sectors`; on a track of no sectors a free one
(log 11). -/
def readIdIndex (s : State) : Nat :=
  let n := (trackAt s (workTrack s)).nSectors
  if n = 0 then Config.lostIndex s.draws else s.pos.positionInTrack % n

/-- The sector whose ID field is being read (R452). -/
def readIdSector (s : State) : Sector :=
  ((trackAt s (workTrack s)).sectorAt (readIdIndex s)).getD (Config.lostSector s.draws)

/-- Byte `k` of an ID field (R451), if there is one. -/
def IdField.byte? (id : IdField) (k : Nat) : Option Byte := [id.track, id.head, id.sector, id.sizeCode][k]?

/-- One ID byte to the host, one byte on (R452). -/
def deliverIdByte (s : State) : State :=
  { s with
    data := ((readIdSector s).id.byte? s.xfer.byteIndex).getD (Config.lostByte s.draws)
    status := statusByte
    xfer := { s.xfer with byteIndex := s.xfer.byteIndex + 1 } }

/-- The ID field at index `q` of a track of `n` sectors is passed (R452). -/
def passIdField (q n : Nat) (s : State) : State :=
  { s with
    pos := { s.pos with positionInTrack := nextPosition s q n }
    xfer := { s.xfer with byteIndex := 0, sectorsToGo := s.xfer.sectorsToGo - 1 } }

/-- `ReadIDTick()` (R452). -/
def readIdTick (s : State) : State :=
  if s.xfer.sectorsToGo < 0 then finalTick s
  else
    let s1 := deliverIdByte s
    if s1.xfer.byteIndex < 4 then arm Config.byteTime s1
    else
      let s2 := passIdField (readIdIndex s) (trackAt s (workTrack s)).nSectors s1
      if 0 < s2.xfer.sectorsToGo then arm Config.byteTime s2 else endTransfer { s2 with result := 0x00 }

/-- `VerifySetup()` (R470): the stored error of the sector found is in `result` until the tick. -/
def verifySetup (s : State) : State :=
  match sectorSetup s.latch.params[0] s.latch.params[1] s.latch.params[2] false s with
  | .ok s1 => arm Config.shortDelay { s1 with result := (currentSector s1).error }
  | .error s1 => s1

/-- `VerifyTick()` (R470). -/
def verifyTick (s : State) : State := { s with result := 0x00, status := statusOver }

/-- Seek's work on the selected drive (R480). -/
def seekTo (d : Fin 2) (t : Byte) (s : State) : State :=
  { s with
    ctrl := { s.ctrl with currentTrack := s.ctrl.currentTrack.set d t }
    pos := { s.pos with physicalTrack := clampTrack t, usingSpecial := false, positionInTrack := 0, drdsc := 0 } }

/-- `SeekSetup()` (R480). -/
def seekSetup (s : State) : State :=
  match selDrive s with
  | none => raiseError errNotReady (startWork s)
  | some d => arm Config.shortDelay (seekTo d s.latch.params[0] (startWork s))

/-- `SeekTick()` (R480). -/
def seekTick (s : State) : State := { s with result := 0x00, status := statusOver }

end Sys2Proof.Machine
end

