-- ==== Sys2Proof/Machine/Immediate.lean ====
section
/-! DEFINITION. The immediate commands' setups, the unsupported commands' and the fallback's (45_immediate.md R500 to
R545). -/

namespace Sys2Proof.Machine

/-- The Read Drive Status byte (R221, R500, D57). -/
def driveStatusByte (s : State) : Byte :=
  let d := selDrive s
  0x80
    ||| (if s.ctrl.select[1] then 0x40 else 0x00)
    ||| (if s.ctrl.select[0] then 0x04 else 0x00)
    ||| (match d with
      | some d => if s.disc[d].writable then 0x00 else 0x08
      | none => 0x00)
    ||| (match d with
      | some _ => if s.pos.physicalTrack = 0 then 0x02 else 0x00
      | none => 0x00)

/-- `ReadDriveStatus()` (R500). -/
def readDriveStatusSetup (s : State) : State :=
  { s with result := driveStatusByte s, pos := { s.pos with drdsc := s.pos.drdsc + 1 } }

/-- Specify 0x0D (R510): the timing registers. -/
def loadTiming (p1 p2 p3 : Byte) (c : Control) : Control :=
  { c with stepRate := p1, headSettle := p2, indexCount := p3.extractLsb' 4 4, headLoad := p3.extractLsb' 0 4 }

/-- Specify 0x10 and 0x18 (R511): a surface's bad tracks and current track. -/
def loadSurface (u : Fin 2) (p1 p2 p3 : Byte) (c : Control) : Control :=
  { c with badTrack := c.badTrack.set u #v[p1, p2], currentTrack := c.currentTrack.set u p3 }

/-- `Specify()` (R510 to R512). -/
def specifySetup (s : State) : State :=
  match specifyKind s.latch.params[0] with
  | .timing => { s with ctrl := loadTiming s.latch.params[1] s.latch.params[2] s.latch.params[3] s.ctrl }
  | .surface u => { s with ctrl := loadSurface u s.latch.params[1] s.latch.params[2] s.latch.params[3] s.ctrl }
  | .other => s

/-- A named special register's value (R220, R520). -/
def readSpecialReg (c : Control) : SpecialReg → Byte
  | .scanSector => c.scanSector
  | .badTrack u k => c.badTrack[u][k]
  | .currentTrack u => c.currentTrack[u]
  | .scanCountLow => c.scanCount.extractLsb' 0 8
  | .scanCountHigh => c.scanCount.extractLsb' 8 8
  | .mode => c.mode
  | .driveIn => c.driveIn
  | .driveOut => c.driveOut

/-- `SpecialRead(r)` (R520): a number outside the map reads 0x00. -/
def specialRead (r : Byte) (s : State) : Byte :=
  match specialReg r with
  | some reg => readSpecialReg s.ctrl reg
  | none => 0x00

/-- Read Special Register's setup (R520). -/
def readSpecialSetup (s : State) : State := { s with result := specialRead s.latch.params[0] s }

/-- What a write of a named special register does to the control registers (R530, R531). -/
def writeSpecialReg (v : Byte) (c : Control) : SpecialReg → Control
  | .scanSector => { c with scanSector := v }
  | .badTrack u k => { c with badTrack := c.badTrack.set u (c.badTrack[u].set k v) }
  | .currentTrack u => { c with currentTrack := c.currentTrack.set u v }
  | .scanCountLow => { c with scanCount := c.scanCount.extractLsb' 8 8 ++ v }
  | .scanCountHigh => { c with scanCount := v ++ c.scanCount.extractLsb' 0 8 }
  | .mode => { c with mode := v }
  | .driveIn => { c with driveIn := v }
  | .driveOut => { c with driveOut := v, select := selectFlags v }

/-- What a write of a named special register does to the positioning state: only surface 0's current track touches it
(R530, R532). -/
def writeSpecialPos (v : Byte) (p : Positioning) : SpecialReg → Positioning
  | .currentTrack 0 => { p with logicalTrack := v, usingSpecial := decide (v.toNat ≠ p.physicalTrack.val), drdsc := 0 }
  | .currentTrack 1 => p
  | .scanSector => p
  | .badTrack _ _ => p
  | .scanCountLow => p
  | .scanCountHigh => p
  | .mode => p
  | .driveIn => p
  | .driveOut => p

/-- `SpecialWrite(r, v)` (R530): a number outside the map is ignored. -/
def specialWrite (r v : Byte) (s : State) : State :=
  match specialReg r with
  | some reg => { s with ctrl := writeSpecialReg v s.ctrl reg, pos := writeSpecialPos v s.pos reg }
  | none => s

/-- Write Special Register's setup (R530). -/
def writeSpecialSetup (s : State) : State := specialWrite s.latch.params[0] s.latch.params[1] s

/-- The unsupported commands' setup: nothing (R540). -/
def unsupportedSetup (s : State) : State := s

/-- The fallback's setup: nothing (R545). -/
def unknownSetup (s : State) : State := s

end Sys2Proof.Machine
end

