-- ==== Sys2Proof/Machine/Read.lean ====
section
/-! DEFINITION. The read commands' handlers and the read result rule (42_read.md R352 to R370). -/

namespace Sys2Proof.Machine

/-- `ReadResult(sec, L, o)` (R352): the result code and whether the byte may be corrupted; the first case that matches
wins. -/
def readResult (sec : Sector) (len : Nat) (overRead : Bool) : Byte × Bool :=
  if sec.error = 0x00 ∧ sec.realSize ≠ len then (0x0E, false)
  else if overRead = true ∧ sec.error = 0x00 then (0x0E, false)
  else if overRead = true ∧ (sec.error = 0x20 ∨ sec.error = 0x2E) then (0x2E, false)
  else if sec.error = 0x20 ∧ sec.realSize ≠ len then (0x2E, false)
  else if sec.error = 0x2E ∧ sec.idSize = len ∧ overRead = false then (0x20, false)
  else if sec.error = 0xE1 then (if len = 256 then 0x00 else 0x0E, false)
  else if sec.error = 0xE0 then (if len = 128 then 0x00 else 0x0E, false)
  else if sec.error = 0x0E ∧ sec.realSize = sec.idSize then (0x0E, true)
  else (sec.error, false)

/-- The read result of the current sector (R354). -/
def currentResult (s : State) : Byte × Bool :=
  readResult (currentSector s) s.xfer.requestedLength s.pos.sectorOverRead

/-- Byte corruption (R356): every 5th byte of a corrupted sector is shifted right by a drawn amount (log 9). -/
def corruptByte (corrupt : Bool) (k shift : Nat) (b : Byte) : Byte :=
  if corrupt = true ∧ k % 5 = 4 then b >>> shift else b

/-- The byte a read tick delivers (R354, R356). -/
def deliveredByte (s : State) : Byte :=
  corruptByte (currentResult s).2 s.xfer.byteIndex (Config.corruptShift s.draws).val (currentByte s)

/-- The first part of `ReadTick` (R354): the byte to `data`, its code to `result`, the byte status, one byte on. -/
def deliverByte (s : State) : State :=
  { s with
    data := deliveredByte s
    result := (currentResult s).1
    status := statusByte
    xfer := { s.xfer with byteIndex := s.xfer.byteIndex + 1 } }

/-- `ReadTick()` (R354). -/
def readTick (s : State) : State :=
  if s.xfer.sectorsToGo < 0 then finalTick s
  else
    let s1 := deliverByte s
    if s1.xfer.byteIndex < s1.xfer.sectorLength then arm Config.byteTime s1
    else
      let s2 := passSector s1
      if 0 < s2.xfer.sectorsToGo then nextSector s2 else endTransfer s2

/-- `Read128Tick` (R370, D50): the same as `ReadTick`. -/
def read128Tick (s : State) : State := readTick s

/-- A sector setup without a write check, then the first tick armed (R360, R370). -/
def readSetup (t sec v : Byte) (s : State) : State :=
  match sectorSetup t sec v false s with
  | .ok s1 => arm Config.byteTime s1
  | .error s1 => s1

/-- Read Data's setup (R360). -/
def readDataSetup (s : State) : State := readSetup s.latch.params[0] s.latch.params[1] s.latch.params[2] s

/-- Read Data & Deleted's setup (R365, D50): the same as Read Data's. -/
def readDelSetup (s : State) : State := readSetup s.latch.params[0] s.latch.params[1] s.latch.params[2] s

/-- Read Data & Deleted 128's setup (R370): requested length 128, one sector. -/
def read128Setup (s : State) : State := readSetup s.latch.params[0] s.latch.params[1] 0x01 s

end Sys2Proof.Machine
end

