-- ==== Sys2Proof/Machine/WriteFormat.lean ====
section
/-! DEFINITION. Write Data's and Format's handlers (43_write_format.md R400 to R422). -/

namespace Sys2Proof.Machine

/-- Write Data's setup (R400). -/
def writeDataSetup (s : State) : State :=
  match sectorSetup s.latch.params[0] s.latch.params[1] s.latch.params[2] true s with
  | .ok s1 => arm Config.byteTime { s1 with xfer := { s1.xfer with firstWriteInterrupt := true } }
  | .error s1 => s1

/-- The first tick of Write Data and Format requests the first byte and takes none (R402, R422). -/
def requestFirstByte (s : State) : State :=
  arm Config.byteTime { s with status := statusByte, xfer := { s.xfer with firstWriteInterrupt := false } }

/-- A tick that wants another byte: the byte status and the next tick (R402, R422). -/
def requestByte (delay : Nat) (s : State) : State := arm delay { s with status := statusByte }

/-- Store `data` in the current sector (R402, R405). -/
def storeData (s : State) : State :=
  match storeAddress s with
  | some a => discWrite s a s.data
  | none => s

/-- One byte on (R402, R422). -/
def nextByte (s : State) : State := { s with xfer := { s.xfer with byteIndex := s.xfer.byteIndex + 1 } }

/-- `WriteTick()` (R402). -/
def writeTick (s : State) : State :=
  if s.xfer.sectorsToGo < 0 then finalTick s
  else if s.xfer.firstWriteInterrupt then requestFirstByte s
  else
    let s1 := nextByte (storeData s)
    if s1.xfer.byteIndex < s1.xfer.sectorLength then requestByte Config.byteTime s1
    else
      let s2 := passSector s1
      if 0 < s2.xfer.sectorsToGo then nextSector { s2 with status := statusByte } else finishWithWriteback s2

/-- The size/count byte Format insists on: 256 bytes, 10 sectors (R420). -/
def formatGeometry : Byte := 0x2A

/-- Format's track takes its declared sector count, and its transfer starts at sector index 0 (R421). -/
def startFormat (t : Byte) (a : TrackAddr) (s : State) : State :=
  { setTrack s a { trackAt s a with logicalSectors := 10 } with
    xfer := { s.xfer with
      trackAddr := t
      requestedLength := 256
      sectorLength := 256
      sectorsToGo := 10
      curTrack := some a
      curSector := some 0
      byteIndex := 0
      firstWriteInterrupt := true } }

/-- `FormatSetup` once the track is resolved (R421). -/
def formatOnTrack (t : Byte) (a : TrackAddr) (s : State) : State :=
  if (trackAt s a).nSectors < 10 then raiseError errSectorNotFound s
  else arm Config.byteTime (startFormat t a s)

/-- `FormatSetup` from the drive on (R421). -/
def formatOnDrive (d : Fin 2) (t : Byte) (s : State) : State :=
  formatOnTrack t ⟨d, selHead s, s.pos.physicalTrack⟩ s

/-- `FormatSetup()` (R421). -/
def formatSetup (s : State) : State :=
  match selDrive s with
  | none => raiseError errNotReady (startWork s)
  | some d =>
    if !s.disc[d].writable then raiseError errWriteProtect (startWork s)
    else if s.latch.params[2] ≠ formatGeometry then raiseError errNotPresent (startWork s)
    else formatOnDrive d s.latch.params[0] (resolveTrack s.latch.params[0] (startWork s))

/-- The byte Format fills a sector with (R422). -/
def formatFill : Byte := 0xE5

/-- The current sector's buffer is overwritten (R422). -/
def fillCurrent (s : State) : State :=
  match fillAddress s with
  | some (t, i) => discFill s t i formatFill
  | none => s

/-- The next sector by index, its four ID bytes to come (R422). -/
def nextIndex (s : State) : State :=
  { s with
    xfer := { s.xfer with
      curSector := some (workSector s + 1)
      byteIndex := 0
      sectorsToGo := s.xfer.sectorsToGo - 1 } }

/-- `FormatTick()` (R422). -/
def formatTick (s : State) : State :=
  if s.xfer.sectorsToGo < 0 then finalTick s
  else if s.xfer.firstWriteInterrupt then requestFirstByte s
  else
    let s1 := nextByte s
    if s1.xfer.byteIndex < 4 then requestByte Config.byteTime s1
    else
      let s2 := nextIndex (fillCurrent s1)
      if 0 < s2.xfer.sectorsToGo then requestByte Config.formatGapTime s2 else finishWithWriteback s2

end Sys2Proof.Machine
end

