-- ==== Sys2Proof/Machine/Handlers.lean ====
section
/-! DEFINITION. The setup and tick columns of the command table (30_encoding.md R210). -/

namespace Sys2Proof.Machine

/-- A row's setup handler (R210). -/
def runSetup (c : Command) (s : State) : State :=
  match c with
  | .write => writeDataSetup s
  | .read => readDataSetup s
  | .readDel128 => read128Setup s
  | .readDel => readDelSetup s
  | .readId => readIdSetup s
  | .verify => verifySetup s
  | .format => formatSetup s
  | .seek => seekSetup s
  | .readStatus => readDriveStatusSetup s
  | .specify => specifySetup s
  | .writeSpecial => writeSpecialSetup s
  | .readSpecial => readSpecialSetup s
  | .scan => unsupportedSetup s
  | .scanDel => unsupportedSetup s
  | .write128 => unsupportedSetup s
  | .writeDel128 => unsupportedSetup s
  | .writeDel => unsupportedSetup s
  | .read128 => unsupportedSetup s
  | .verifyDel128 => unsupportedSetup s
  | .unknown => unknownSetup s

/-- A row's tick handler; a row that has none does nothing at this point of a tick (R210, R306). -/
def runTick (c : Command) (s : State) : State :=
  match c with
  | .write => writeTick s
  | .read => readTick s
  | .readDel128 => read128Tick s
  | .readDel => readTick s
  | .readId => readIdTick s
  | .verify => verifyTick s
  | .format => formatTick s
  | .seek => seekTick s
  | .readStatus => s
  | .specify => s
  | .writeSpecial => s
  | .readSpecial => s
  | .scan => s
  | .scanDel => s
  | .write128 => s
  | .writeDel128 => s
  | .writeDel => s
  | .read128 => s
  | .verifyDel128 => s
  | .unknown => s

end Sys2Proof.Machine
end

