-- ==== Sys2Proof/Machine/Window.lean ====
section
/-! DEFINITION. The register window (40_host_interface.md R250 to R274), controller reset (70_reset_and_hazards.md
R700), and the meanings of the seven window accesses. -/

namespace Sys2Proof.Machine

/-- A value goes back to the host (R250; log 6). -/
def returning (v : Byte) (s : State) : State := { s with returned := v }

/-- What a read returns when the controller is disabled (R256). -/
def disabledRead (s : State) : State := returning 0xFF s

/-- Reading offset 0 (R251). -/
def readStatus (s : State) : State := if s.cfg.fdcEnabled then returning s.status s else disabledRead s

/-- Reading offset 1 (R252). -/
def readResultReg (s : State) : State :=
  if s.cfg.fdcEnabled then { returning s.result s with status := statusResultRead s.status, result := 0x00 }
  else disabledRead s

/-- Reading offset 4 (R253). -/
def readData (s : State) : State :=
  if s.cfg.fdcEnabled then { returning s.data s with status := statusDataAccess s.status } else disabledRead s

/-- Reading offset 2, 3, 5, 6 or 7 (R254). -/
def readOther (s : State) : State := if s.cfg.fdcEnabled then returning 0x00 s else disabledRead s

/-- Every write of an enabled controller does its offset's effect and then schedules the unload; a disabled controller
ignores it (R256, R257, R270). -/
def writeWindow (effect : State → State) (s : State) : State :=
  if s.cfg.fdcEnabled then scheduleUnload (effect s) else s

/-- R261: the select bits of the command byte, mirrored into the output port. -/
def mirrorSelect (v : Byte) (c : Control) : Control :=
  { c with select := selectFlags v, driveOut := (v &&& 0xC0) ||| (c.driveOut &&& 0x3F) }

/-- The latching part of a command write (R260 to R262). -/
def latchCommand (v : Byte) (s : State) : State :=
  { s with
    misuse := s.misuse || busy s
    latch := { s.latch with
      command := v
      entry := some (decodeCommand v)
      paramExpected := paramCount s.cfg.unsupportedParams (decodeCommand v)
      paramReceived := 0 }
    ctrl := mirrorSelect v s.ctrl
    status := statusLatched s.status }

/-- A command write's own effect (R260, R263): a row of no parameters runs its setup at once. -/
def commandEffect (v : Byte) (s : State) : State :=
  let s1 := latchCommand v s
  if s1.latch.paramExpected = 0 then runSetup (decodeCommand v) { s1 with status := statusImmediate s1.status } else s1

/-- Writing offset 0 (R260). -/
def commandWrite (v : Byte) (s : State) : State := writeWindow (commandEffect v) s

/-- Storing one awaited parameter (R264). The buffer has 16 slots and at most five are used (R266). -/
def storeParam (v : Byte) (s : State) : State :=
  { s with
    status := statusParam s.status
    latch := { s.latch with
      params := s.latch.params.setIfInBounds s.latch.paramReceived v
      paramReceived := s.latch.paramReceived + 1 } }

/-- A parameter write's own effect (R264 to R266): the last awaited parameter runs the setup; one that is not awaited
does nothing. -/
def paramEffect (v : Byte) (s : State) : State :=
  match s.latch.entry with
  | none => s
  | some c =>
    if s.latch.paramReceived < s.latch.paramExpected then
      let s1 := storeParam v s
      if s1.latch.paramReceived = s1.latch.paramExpected then
        runSetup c { s1 with status := statusLastParam s1.status }
      else s1
    else s

/-- Writing offset 1 (R264 to R266). -/
def paramWrite (v : Byte) (s : State) : State := writeWindow (paramEffect v) s

/-- Controller reset (R700): what it clears, in the order that leaves an unload armed (C5); the rest is kept (R701). -/
def controllerReset (s : State) : State :=
  let s1 :=
    { s with
      result := 0x00
      status := 0x00
      ctrl := resetControl
      latch := { s.latch with command := 0x00, entry := none, paramExpected := 0, paramReceived := 0 }
      xfer := idleTransfer
      pos := { s.pos with sectorOverRead := false }
      sched := { s.sched with trigger := none, unloadPending := false } }
  let s2 := if s1.sched.motorLoaded then armUnload s1 else s1
  if s2.firstResetDone then s2 else { s2 with disc := #v[emptyDisc, emptyDisc], firstResetDone := true }

/-- Writing offset 2, whatever the value (R268, D35). -/
def resetWrite (s : State) : State := writeWindow controllerReset s

/-- A data write's own effect (R267). -/
def dataEffect (v : Byte) (s : State) : State := { s with data := v, status := statusDataAccess s.status }

/-- Writing offset 4 (R267). -/
def dataWrite (v : Byte) (s : State) : State := writeWindow (dataEffect v) s

/-- Writing offset 3, 5, 6 or 7: nothing but the unload scheduling (R269). -/
def otherWrite (s : State) : State := writeWindow (fun s => s) s

/-! The meanings of the window accesses. -/

/-- RDSTAT (R251). -/
def execRdstat (s : State) : Host.Outcome State Fault Refusal := .next (readStatus s)
/-- RDRESULT (R252). -/
def execRdresult (s : State) : Host.Outcome State Fault Refusal := .next (readResultReg s)
/-- RDDATA (R253). -/
def execRddata (s : State) : Host.Outcome State Fault Refusal := .next (readData s)
/-- CMD (R260 to R263). -/
def execCmd (v : Byte) (s : State) : Host.Outcome State Fault Refusal := .next (commandWrite v s)
/-- PARAM (R264 to R266). -/
def execParam (v : Byte) (s : State) : Host.Outcome State Fault Refusal := .next (paramWrite v s)
/-- RESET (R268): the value written is not examined. -/
def execReset (_v : Byte) (s : State) : Host.Outcome State Fault Refusal := .next (resetWrite s)
/-- WRDATA (R267). -/
def execWrdata (v : Byte) (s : State) : Host.Outcome State Fault Refusal := .next (dataWrite v s)

end Sys2Proof.Machine
end

