-- ==== Sys2Proof/Machine/Calls.lean ====
section
/-! DEFINITION. Fetching the host's next call, and the host calls that are no instruction. -/

namespace Sys2Proof.Machine

/-- The host makes its next call: the call leaves the queue and its cycle is the current one (R11, log 1). -/
def accept (c : HostCall) (rest : List HostCall) (s : State) : State := { s with host := rest, now := c.now }

/-- What is not an instruction of the table but still has an effect: accesses of the other offsets (R254, R269) and
shell operations (R720). A malformed mnemonic form is refused by name (log 3). -/
def runCall (d : Decoded) (run : Instr → State → Host.Outcome State Fault Refusal) (s : State) :
    Host.Outcome State Fault Refusal :=
  match d with
  | .instr i => run i s
  | .otherRead _ => .next (readOther s)
  | .otherWrite _ _ => .next (otherWrite s)
  | .shell op => .next (runShell op s)
  | .reject why => .refused (.malformedCommand why)

/-- The host call that carries an instruction given by its table bits (log 1). -/
def tableCall (now nbits w : Nat) : HostCall := { now := now, op := .command (tableBytes (w % 2 ^ nbits)) }

end Sys2Proof.Machine
end

