-- ==== Sys2Proof/Machine/Commands.lean ====
section
/-! DEFINITION. The meanings of the command rows: the host issues the command whole, its command byte to offset 0 and
then its parameter bytes to offset 1 (30_encoding.md R202, R230; 40_host_interface.md R272; log 2). -/

namespace Sys2Proof.Machine

/-- The n + 1 writes that issue a command of n parameters (R272), all at one cycle (log 2). -/
def issueCommand (code : Byte) (ps : List Byte) (s : State) : State :=
  ps.foldl (fun s v => paramWrite v s) (commandWrite code s)

/-- WRITE: Write Data (R400). -/
def execWrite (ss : BitVec 2) (t sec v : Byte) (s : State) : Host.Outcome State Fault Refusal :=
  .next (issueCommand (commandByte ss 0x0B) [t, sec, v] s)
/-- READ: Read Data (R360). -/
def execRead (ss : BitVec 2) (t sec v : Byte) (s : State) : Host.Outcome State Fault Refusal :=
  .next (issueCommand (commandByte ss 0x13) [t, sec, v] s)
/-- READDEL128: Read Data & Deleted, 128 bytes (R370). -/
def execReaddel128 (ss : BitVec 2) (t sec : Byte) (s : State) : Host.Outcome State Fault Refusal :=
  .next (issueCommand (commandByte ss 0x16) [t, sec] s)
/-- READDEL: Read Data & Deleted (R365). -/
def execReaddel (ss : BitVec 2) (t sec v : Byte) (s : State) : Host.Outcome State Fault Refusal :=
  .next (issueCommand (commandByte ss 0x17) [t, sec, v] s)
/-- READID: Read ID (R450). -/
def execReadid (ss : BitVec 2) (t p1 n : Byte) (s : State) : Host.Outcome State Fault Refusal :=
  .next (issueCommand (commandByte ss 0x1B) [t, p1, n] s)
/-- VERIFY: Verify Data (R470). -/
def execVerify (ss : BitVec 2) (t sec v : Byte) (s : State) : Host.Outcome State Fault Refusal :=
  .next (issueCommand (commandByte ss 0x1F) [t, sec, v] s)
/-- FORMAT: Format (R420). -/
def execFormat (ss : BitVec 2) (t g3 v g5 g1 : Byte) (s : State) : Host.Outcome State Fault Refusal :=
  .next (issueCommand (commandByte ss 0x23) [t, g3, v, g5, g1] s)
/-- SEEK: Seek (R480). -/
def execSeek (ss : BitVec 2) (t : Byte) (s : State) : Host.Outcome State Fault Refusal :=
  .next (issueCommand (commandByte ss 0x29) [t] s)
/-- RDSTATUS: Read Drive Status (R500). -/
def execRdstatus (ss : BitVec 2) (s : State) : Host.Outcome State Fault Refusal :=
  .next (issueCommand (commandByte ss 0x2C) [] s)
/-- SPECIFY: Specify, whose byte has no select bits (R510 to R513, R213). -/
def execSpecify (p0 p1 p2 p3 : Byte) (s : State) : Host.Outcome State Fault Refusal :=
  .next (issueCommand 0x35 [p0, p1, p2, p3] s)
/-- WRSPECIAL: Write Special Register (R530). -/
def execWrspecial (ss : BitVec 2) (r v : Byte) (s : State) : Host.Outcome State Fault Refusal :=
  .next (issueCommand (commandByte ss 0x3A) [r, v] s)
/-- RDSPECIAL: Read Special Register (R520). -/
def execRdspecial (ss : BitVec 2) (r : Byte) (s : State) : Host.Outcome State Fault Refusal :=
  .next (issueCommand (commandByte ss 0x3D) [r] s)
/-- SCAN: Scan Data, accepted and not executed (R540). -/
def execScan (ss : BitVec 2) (ps : List Byte) (s : State) : Host.Outcome State Fault Refusal :=
  .next (issueCommand (commandByte ss 0x00) ps s)
/-- SCANDEL: Scan Data & Deleted, accepted and not executed (R540). -/
def execScandel (ss : BitVec 2) (ps : List Byte) (s : State) : Host.Outcome State Fault Refusal :=
  .next (issueCommand (commandByte ss 0x04) ps s)
/-- WRITE128: Write Data 128, accepted and not executed (R540). -/
def execWrite128 (ss : BitVec 2) (ps : List Byte) (s : State) : Host.Outcome State Fault Refusal :=
  .next (issueCommand (commandByte ss 0x0A) ps s)
/-- WRITEDEL128: Write Deleted Data 128, accepted and not executed (R540). -/
def execWritedel128 (ss : BitVec 2) (ps : List Byte) (s : State) : Host.Outcome State Fault Refusal :=
  .next (issueCommand (commandByte ss 0x0E) ps s)
/-- WRITEDEL: Write Deleted Data, accepted and not executed (R540). -/
def execWritedel (ss : BitVec 2) (ps : List Byte) (s : State) : Host.Outcome State Fault Refusal :=
  .next (issueCommand (commandByte ss 0x0F) ps s)
/-- READ128: Read Data 128, accepted and not executed (R540). -/
def execRead128 (ss : BitVec 2) (ps : List Byte) (s : State) : Host.Outcome State Fault Refusal :=
  .next (issueCommand (commandByte ss 0x12) ps s)
/-- VERIFYDEL128: Verify Data & Deleted 128, accepted and not executed (R540). -/
def execVerifydel128 (ss : BitVec 2) (ps : List Byte) (s : State) : Host.Outcome State Fault Refusal :=
  .next (issueCommand (commandByte ss 0x1E) ps s)
/-- UNKNOWN: the fallback (R545), whatever byte took it. -/
def execUnknown (code : Byte) (s : State) : Host.Outcome State Fault Refusal :=
  .next (issueCommand code [] s)

end Sys2Proof.Machine
end

