-- ==== Sys2Proof/Machine/Tick.lean ====
section
/-! DEFINITION. The tick entry point and the motor/head model (41_scheduler.md R305 to R326). -/

namespace Sys2Proof.Machine

/-- `MotorHasWork()` (R320). -/
def motorHasWork (s : State) : Bool :=
  s.sched.unloadPending ||
    (match selDrive s with
      | some d => !s.sched.motorLoaded || s.sched.headPosition[d] != s.pos.physicalTrack.val
      | none => false)

/-- Head unload (R323): the trigger stays NEVER and the head stays where it was. -/
def unloadHead (s : State) : State :=
  { s with
    ctrl := { s.ctrl with select := #v[false, false], driveOut := s.ctrl.driveOut &&& 0x3F }
    sched := { s.sched with motorLoaded := false, unloadPending := false } }

/-- Head load (R321). -/
def loadHead (s : State) : State :=
  arm Config.headLoadDelay { s with sched := { s.sched with motorLoaded := true } }

/-- The number of tracks between the head and the physical track (R320). -/
def trackDelta (s : State) (d : Fin 2) : Nat :=
  max s.pos.physicalTrack.val s.sched.headPosition[d] - min s.pos.physicalTrack.val s.sched.headPosition[d]

/-- The delay of a head movement (R322). -/
def stepDelay (delta : Nat) : Nat :=
  if delta = 1 then Config.stepDelayOne else Config.seekDelayPerTrack * delta

/-- Head step (R322). -/
def stepHead (d : Fin 2) (s : State) : State :=
  arm (stepDelay (trackDelta s d))
    { s with sched := { s.sched with headPosition := s.sched.headPosition.set d s.pos.physicalTrack.val } }

/-- `MotorStep()` (R320), run when `motorHasWork`. -/
def motorStep (s : State) : State :=
  if s.sched.unloadPending then unloadHead s
  else
    match selDrive s with
    | some d => if s.sched.motorLoaded then stepHead d s else loadHead s
    | none => s

/-- A tick is early when nothing is armed or the armed cycle has not come (R307, D56). -/
def tickIsEarly (s : State) : Bool :=
  match s.sched.trigger with
  | none => true
  | some t => decide (s.now < t)

/-- Steps 4 and 5 of a tick (R305, R306): post a deferred error, or run the latched command's tick handler. -/
def tickCommand (s : State) : State :=
  if isPending s.xfer.nextInterruptIsErr then postDeferred s.xfer.nextInterruptIsErr s
  else
    match s.latch.entry with
    | some c => runTick c s
    | none => s

/-- Step 1 of a tick, with the misuse mark of an early one (R305, R307). Each tick reads its free values with a number
of its own (log 9). -/
def enterTick (s : State) : State :=
  clearTrigger { s with misuse := s.misuse || tickIsEarly s, draws := s.draws + 1 }

/-- `tick()` (R305): a motor step alone, or the interrupt, the command's work and the unload scheduling. -/
def tick (s : State) : State :=
  let s1 := enterTick s
  if s1.cfg.motorModelEnabled && motorHasWork s1 then motorStep s1
  else scheduleUnload (tickCommand { s1 with status := statusInterrupt s1.status })

/-- TICK (R305). -/
def execTick (s : State) : Host.Outcome State Fault Refusal := .next (tick s)

end Sys2Proof.Machine
end

