-- ==== Sys2Proof/Machine/Dispatch.lean ====
section
/-! DEFINITION. Which meaning each instruction has: one arm per constructor. -/

namespace Sys2Proof.Machine

/-- What an instruction does to the state. -/
def exec (i : Instr) (s : State) : Host.Outcome State Fault Refusal :=
  match i with
  | .write ss t sec v => Sys2Proof.Machine.execWrite ss t sec v s
  | .read ss t sec v => Sys2Proof.Machine.execRead ss t sec v s
  | .readdel128 ss t sec => Sys2Proof.Machine.execReaddel128 ss t sec s
  | .readdel ss t sec v => Sys2Proof.Machine.execReaddel ss t sec v s
  | .readid ss t p n => Sys2Proof.Machine.execReadid ss t p n s
  | .verify ss t sec v => Sys2Proof.Machine.execVerify ss t sec v s
  | .format ss t a v b c => Sys2Proof.Machine.execFormat ss t a v b c s
  | .seek ss t => Sys2Proof.Machine.execSeek ss t s
  | .rdstatus ss => Sys2Proof.Machine.execRdstatus ss s
  | .specify a b c d => Sys2Proof.Machine.execSpecify a b c d s
  | .wrspecial ss r v => Sys2Proof.Machine.execWrspecial ss r v s
  | .rdspecial ss r => Sys2Proof.Machine.execRdspecial ss r s
  | .scan ss ps => Sys2Proof.Machine.execScan ss ps s
  | .scandel ss ps => Sys2Proof.Machine.execScandel ss ps s
  | .write128 ss ps => Sys2Proof.Machine.execWrite128 ss ps s
  | .writedel128 ss ps => Sys2Proof.Machine.execWritedel128 ss ps s
  | .writedel ss ps => Sys2Proof.Machine.execWritedel ss ps s
  | .read128 ss ps => Sys2Proof.Machine.execRead128 ss ps s
  | .verifydel128 ss ps => Sys2Proof.Machine.execVerifydel128 ss ps s
  | .unknown code => Sys2Proof.Machine.execUnknown code s
  | .rdstat => Sys2Proof.Machine.execRdstat s
  | .rdresult => Sys2Proof.Machine.execRdresult s
  | .rddata => Sys2Proof.Machine.execRddata s
  | .cmd v => Sys2Proof.Machine.execCmd v s
  | .param v => Sys2Proof.Machine.execParam v s
  | .reset v => Sys2Proof.Machine.execReset v s
  | .wrdata v => Sys2Proof.Machine.execWrdata v s
  | .tick => Sys2Proof.Machine.execTick s

end Sys2Proof.Machine
end

