-- ==== Sys2Proof/Machine/Step.lean ====
section
/-! DEFINITION. One step of the machine: the host's next call. -/

namespace Sys2Proof.Machine

/-- The host makes its next call and the block answers it; with no call pending the block waits (R10, R702, log 1). -/
def step (s : State) : Host.Outcome State Fault Refusal :=
  match s.host with
  | [] => .next s
  | c :: rest => runCall (decode c.op) exec (accept c rest s)

/-- The state with an instruction, given by its table bits, as the host's very next call (log 1). -/
def State.withFetchWord (s : State) (nbits w : Nat) : State :=
  { s with host := tableCall s.now nbits w :: s.host }

end Sys2Proof.Machine
end

