-- ==== Sys2Proof/Safety.lean ====
section
/-! DEFINITION. The terms the statements use: what a well-kept state is, when a running command is ready for its next
tick, and the states that the rules name while a command is issued, set up and ticked. The numbers in the last group
are written out from the spec, not taken from the model's own operations. -/

namespace Sys2Proof.Machine

/-! Well-kept states: what every host call keeps, misuse or not. -/

/-- A sector at index `i` (R112, R115): its record number is its index, its buffer is in canonical form and holds at
most `real_size` bytes, none of the sizes of R111 being above 2048. -/
def Sector.Kept (i : Nat) (sec : Sector) : Prop :=
  sec.record = i ∧ Memory.wf sec.data = true ∧ Memory.below sec.data sec.realSize = true ∧ sec.realSize ≤ 2048

/-- The track invariant (R115), and that a readable track's sectors carry data (R130 to R132). -/
def Track.Kept (tr : Track) : Prop :=
  tr.sectors.length = tr.nSectors ∧
    ∀ i sec, tr.sectors[i]? = some sec → Sector.Kept i sec ∧ (tr.readable = true → 128 ≤ sec.realSize)

/-- Every track of the disc model is well kept. -/
def DiscKept (s : State) : Prop := ∀ a : TrackAddr, (trackAt s a).Kept

/-- Both backing images are in canonical form. -/
def FilesKept (s : State) : Prop := ∀ d : Fin 2, File.wf s.backing[d] = true

/-- The status bits no rule ever sets read as 0 (R31). -/
def StatusKept (s : State) : Prop := s.status &&& statusReserved = 0x00

/-- Bits 7 and 6 of the output port mirror the select flags (R38). -/
def SelectKept (s : State) : Prop :=
  s.ctrl.driveOut.getLsbD 6 = s.ctrl.select[0] ∧ s.ctrl.driveOut.getLsbD 7 = s.ctrl.select[1]

/-- The latch (R35, R36): the entry is the row of the latched byte and the counts belong to it. -/
def LatchKept (s : State) : Prop :=
  match s.latch.entry with
  | none => s.latch.paramExpected = 0 ∧ s.latch.paramReceived = 0
  | some c =>
    c = decodeCommand s.latch.command ∧
      s.latch.paramExpected = paramCount s.cfg.unsupportedParams c ∧ s.latch.paramReceived ≤ s.latch.paramExpected

/-- The deferred error (R310, R312, R600): none, or one of the four raised codes with its tick armed. -/
def ErrorKept (s : State) : Prop :=
  s.xfer.nextInterruptIsErr = 0x00 ∨
    (s.xfer.nextInterruptIsErr ∈ [errNotReady, errWriteProtect, errSectorNotFound, errNotPresent] ∧
      s.sched.trigger.isSome = true ∧ s.sched.unloadPending = false)

/-- The range of `sectors_to_go` (R50). -/
def CountKept (s : State) : Prop := -1 ≤ s.xfer.sectorsToGo ∧ s.xfer.sectorsToGo ≤ 255

/-- The scheduler (R304, R325): a pending unload is armed and the motor is loaded; without the motor model it never is. -/
def SchedKept (s : State) : Prop :=
  (s.sched.unloadPending = true → s.sched.trigger.isSome = true ∧ s.sched.motorLoaded = true) ∧
    (s.sched.motorLoaded = true → s.cfg.motorModelEnabled = true)

/-- A well-kept state. -/
structure Kept (s : State) : Prop where
  status : StatusKept s
  select : SelectKept s
  latch : LatchKept s
  error : ErrorKept s
  count : CountKept s
  sched : SchedKept s
  disc : DiscKept s
  files : FilesKept s

/-! A running command that is ready for its tick. -/

/-- The current track and sector of a transfer, by index, and the sector found there (R50, R51). -/
def At (s : State) (a : TrackAddr) (i : Nat) (x : Sector) : Prop :=
  s.xfer.curTrack = some a ∧ s.xfer.curSector = some i ∧ (trackAt s a).sectorAt i = some x

/-- The rows whose tick handler is `ReadTick` or `Read128Tick` (R210). -/
def isReadCommand (c : Command) : Bool := c == .read || c == .readDel || c == .readDel128

/-- A byte of a readable track's sector is still to move (R350, R354, R402). -/
def SectorReady (s : State) : Prop :=
  ∃ a i x, At s a i x ∧ (trackAt s a).readable = true ∧ 128 ≤ s.xfer.requestedLength ∧
    s.xfer.byteIndex < s.xfer.sectorLength ∧ s.xfer.sectorLength ≤ x.realSize

/-- A format's next sector is one of the ten (R421, R422). -/
def FormatReady (s : State) : Prop :=
  ∃ a i, s.xfer.curTrack = some a ∧ s.xfer.curSector = some i ∧ 10 ≤ (trackAt s a).nSectors ∧
    (i : Int) = 10 - s.xfer.sectorsToGo ∧ i < 10 ∧ s.xfer.byteIndex < 4

/-- An ID field is still to report, on a track that has sectors (R450, R452). -/
def ReadIdReady (s : State) : Prop :=
  ∃ a, s.xfer.curTrack = some a ∧ 0 < (trackAt s a).nSectors ∧ s.xfer.byteIndex < 4

/-- What the latched row's tick handler needs, unless only the final tick is pending (`sectors_to_go` below 0). -/
def HandlerReady (c : Command) (s : State) : Prop :=
  match c with
  | .read => 0 ≤ s.xfer.sectorsToGo → SectorReady s
  | .readDel => 0 ≤ s.xfer.sectorsToGo → SectorReady s
  | .readDel128 => 0 ≤ s.xfer.sectorsToGo → SectorReady s
  | .write => 0 ≤ s.xfer.sectorsToGo → SectorReady s
  | .format => 0 ≤ s.xfer.sectorsToGo → FormatReady s
  | .readId => 0 ≤ s.xfer.sectorsToGo → ReadIdReady s
  | .verify => True
  | .seek => True
  | .readStatus => False
  | .specify => False
  | .writeSpecial => False
  | .readSpecial => False
  | .scan => False
  | .scanDel => False
  | .write128 => False
  | .writeDel128 => False
  | .writeDel => False
  | .read128 => False
  | .verifyDel128 => False
  | .unknown => False

/-- A command's own tick is armed: not the unload, and not a deferred error's post. -/
def Working (s : State) : Prop :=
  s.sched.trigger.isSome = true ∧ s.sched.unloadPending = false ∧ s.xfer.nextInterruptIsErr = 0x00

/-- With a host that never misused the block (R75): while parameters are awaited no command's tick is armed, and when
one is, the latched command is the one that armed it and finds all it needs. -/
def TransferReady (s : State) : Prop :=
  s.misuse = false →
    (s.latch.paramReceived < s.latch.paramExpected → s.sched.trigger = none ∨ s.sched.unloadPending = true) ∧
      (Working s →
        s.latch.paramReceived = s.latch.paramExpected ∧ ∃ c, s.latch.entry = some c ∧ HandlerReady c s)

/-! Running several instructions. -/

/-- The instructions of a list, one after the other, stopping at the first that does not answer a next state. -/
def runAll : List Instr → State → Host.Outcome State Fault Refusal
  | [], s => .next s
  | i :: is, s =>
    match exec i s with
    | .next u => runAll is u
    | .fault f => .fault f
    | .refused r => .refused r

/-! States the rules name. -/

/-- The unload scheduling after a host write or a tick (R270, R304): `now + 4,000,000` when the motor is loaded and
nothing is armed. -/
def unloadScheduled (s : State) : State :=
  if s.sched.motorLoaded = true ∧ s.sched.trigger = none then
    { s with sched := { s.sched with trigger := some (s.now + 4000000), unloadPending := true } }
  else s

/-- An event of the controller armed `delay` cycles ahead (R301). -/
def armedAt (delay : Nat) (s : State) : State :=
  { s with sched := { s.sched with trigger := some (s.now + delay), unloadPending := false } }

/-- The drive a command byte's select field selects (R201). -/
def selectedDrive (ss : BitVec 2) : Option (Fin 2) :=
  if ss.getLsbD 0 then some 0 else if ss.getLsbD 1 then some 1 else none

/-- The parameter buffer with bytes stored from slot `k` on (R36, R264). -/
def paramsStored (buf : Vector Byte 16) : Nat → List Byte → Vector Byte 16
  | _, [] => buf
  | k, v :: vs => paramsStored (buf.setIfInBounds k v) (k + 1) vs

/-- The state in which a command's setup runs, once its byte and all its parameters are latched (R260 to R265):
`result_full` is set, `command_busy` clear, the select bits are copied. -/
def issued (code : Byte) (c : Command) (ps : List Byte) (s : State) : State :=
  { s with
    misuse := s.misuse || busy s
    latch := ⟨code, some c, ps.length, ps.length, paramsStored s.latch.params 0 ps⟩
    ctrl := { s.ctrl with
      select := #v[code.getLsbD 6, code.getLsbD 7]
      driveOut := (code &&& 0xC0) ||| (s.ctrl.driveOut &&& 0x3F) }
    status := (s.status ||| 0x10) &&& 0x7E }

/-- A setup that raised a command error (R310, R350): status 0x80, the code deferred, its tick 50 cycles ahead. -/
def setupRaised (code : Byte) (s : State) : State :=
  armedAt 50 { s with status := 0x80, xfer := { s.xfer with nextInterruptIsErr := code } }

/-- The operands of a sector command, its row, its command byte and its parameters; `v` is the size/count byte its
setup uses (R350, R370). -/
structure SectorForm where
  ss : BitVec 2
  t : Byte
  sec : Byte
  v : Byte
  command : Command
  code : Byte
  params : List Byte
  needWritable : Bool

/-- The five sector commands (R360, R365, R370, R400, R470). -/
def sectorForm : Instr → Option SectorForm
  | .read ss t sec v => some ⟨ss, t, sec, v, .read, commandByte ss 0x13, [t, sec, v], false⟩
  | .readdel ss t sec v => some ⟨ss, t, sec, v, .readDel, commandByte ss 0x17, [t, sec, v], false⟩
  | .readdel128 ss t sec => some ⟨ss, t, sec, 0x01, .readDel128, commandByte ss 0x16, [t, sec], false⟩
  | .verify ss t sec v => some ⟨ss, t, sec, v, .verify, commandByte ss 0x1F, [t, sec, v], false⟩
  | .write ss t sec v => some ⟨ss, t, sec, v, .write, commandByte ss 0x0B, [t, sec, v], true⟩
  | _ => none

/-- The sector that a sector command's setup finds (R349, R350): on drive `d`, at track address `a`, record `r`, the
sector `x` there. -/
structure Finds (s : State) (f : SectorForm) (a : TrackAddr) (r : Nat) (x : Sector) : Prop where
  drive : selectedDrive f.ss = some a.drive
  writable : f.needWritable = true → s.disc[a.drive].writable = true
  head : a.head = selHead s
  track : findTrack (resolveTrack f.t s) a.drive a.head f.t = some a.track
  readable : (trackAt s a).readable = true
  sector : findSector (trackAt s a) f.sec (resolveTrack f.t s).pos.positionInTrack = some r
  there : (trackAt s a).sectorAt r = some x

/-- The state after a sector command's setup has found its sector (R350, R351), less the arming of its first tick. -/
def sectorStarted (f : SectorForm) (a : TrackAddr) (r : Nat) (x : Sector) (s : State) : State :=
  { s with
    status := 0x80
    pos := { s.pos with
      physicalTrack := a.track
      logicalTrack := f.t
      positionInTrack := r
      drdsc := 0
      sectorOverRead := decide (x.realSize < 2 ^ (7 + f.v.toNat / 32)) }
    xfer := { s.xfer with
      trackAddr := f.t
      sectorId := f.sec
      requestedLength := 2 ^ (7 + f.v.toNat / 32)
      sectorLength := min (2 ^ (7 + f.v.toNat / 32)) x.realSize
      sectorsToGo := ((f.v.toNat % 32 : Nat) : Int)
      curTrack := some a
      curSector := some r
      byteIndex := 0 } }

/-- The host ticks when the armed cycle has come (R307). -/
def TickDue (s : State) : Prop := ∃ t, s.sched.trigger = some t ∧ t ≤ s.now

/-- The motor has no work (R320, R325). -/
def MotorQuiet (s : State) : Prop :=
  s.cfg.motorModelEnabled = false ∨
    (s.sched.unloadPending = false ∧
      ∀ d, selDrive s = some d →
        s.sched.motorLoaded = true ∧ s.sched.headPosition[d] = s.pos.physicalTrack.val)

/-- A tick that reaches the tick handler of the row `c` (R305). -/
structure HandlerTick (s : State) (c : Command) : Prop where
  due : TickDue s
  quiet : MotorQuiet s
  noError : s.xfer.nextInterruptIsErr = 0x00
  entry : s.latch.entry = some c

/-- A due tick has cleared the trigger (R305 step 1) and has a number of its own for its free values (log 9). -/
def ticked (s : State) : State :=
  { s with sched := { s.sched with trigger := none }, draws := s.draws + 1 }

/-- A read tick has delivered the byte `b` of the sector `x` (R354, R356). -/
def delivered (x : Sector) (b : Byte) (s : State) : State :=
  { s with
    data :=
      if (readResult x s.xfer.requestedLength s.pos.sectorOverRead).2 = true ∧ s.xfer.byteIndex % 5 = 4 then
        b >>> (Config.corruptShift s.draws).val
      else b
    result := (readResult x s.xfer.requestedLength s.pos.sectorOverRead).1
    status := 0x8C
    xfer := { s.xfer with byteIndex := s.xfer.byteIndex + 1 } }

/-- The sector at index `i` of a track of `n` is passed (R123, R354, R402). -/
def passed (i n : Nat) (s : State) : State :=
  { s with
    pos := { s.pos with positionInTrack := (i + 1) % n }
    xfer := { s.xfer with sectorsToGo := s.xfer.sectorsToGo - 1 } }

/-- The next sector of a multi-sector command, record `r`, sector `y`, has become the current one (R351, R354). -/
def movedOn (r : Nat) (y : Sector) (s : State) : State :=
  { s with
    pos := { s.pos with
      positionInTrack := r
      sectorOverRead := decide (y.realSize < s.xfer.requestedLength) }
    xfer := { s.xfer with
      sectorId := s.xfer.sectorId + 1
      curSector := some r
      byteIndex := 0
      sectorLength := min s.xfer.requestedLength y.realSize } }

/-- The terminal tick (R354, R402, R422, R452): status 0x9C, the final tick pending. -/
def transferEnded (s : State) : State :=
  armedAt 160 { s with status := 0x9C, xfer := { s.xfer with sectorsToGo := -1 } }

/-- A track without its sectors' data: what a write or a format leaves alone (R404, R420). -/
def Track.headers (tr : Track) : Track :=
  { tr with sectors := tr.sectors.map (fun sec => { sec with data := [] }) }

/-- What a successful or failed writeback leaves in the drive's file (R140, R142), given the disc model of `u`: 2560
bytes of the track's first ten sectors at the track's offset, or an unspecified content. -/
def WrittenBack (s u : State) (a : TrackAddr) : Prop :=
  if Config.writebackOk s.draws = true then
    u.backing[a.drive].length =
        max s.backing[a.drive].length (trackOffset s.disc[a.drive].headsCode a.head.val a.track.val + 2560) ∧
      (∀ k, k < 2560 →
        discRead u ⟨a, k / 256, k % 256⟩ =
          some (Memory.read u.backing[a.drive].bytes
            (trackOffset s.disc[a.drive].headsCode a.head.val a.track.val + k))) ∧
      (∀ k, (k < trackOffset s.disc[a.drive].headsCode a.head.val a.track.val ∨
          trackOffset s.disc[a.drive].headsCode a.head.val a.track.val + 2560 ≤ k) →
        Memory.read u.backing[a.drive].bytes k = Memory.read s.backing[a.drive].bytes k)
  else u.backing[a.drive] = File.ofBytes (Config.failedFile s.draws)

/-- The conditions under which a writeback reaches the file (R142). -/
def WritesBack (s : State) (a : TrackAddr) : Prop :=
  s.disc[a.drive].kind ≠ .fsd ∧ s.disc[a.drive].path ≠ "" ∧ 10 ≤ (trackAt s a).nSectors ∧
    ∀ i sec, i < 10 → (trackAt s a).sectors[i]? = some sec → 256 ≤ sec.realSize

/-- What a disc says of itself beside its tracks (R116) is as it was, on both drives: the path, the kind, the writable
flag, the heads code and the number of tracks. -/
def AttributesKept (s u : State) : Prop :=
  ∀ d : Fin 2,
    u.disc[d].path = s.disc[d].path ∧ u.disc[d].kind = s.disc[d].kind ∧
      u.disc[d].writable = s.disc[d].writable ∧ u.disc[d].headsCode = s.disc[d].headsCode ∧
      u.disc[d].totalTracks = s.disc[d].totalTracks

/-! The shell's operations (R720 to R722). -/

/-- A shell operation on drive `d` touches that drive's disc and backing image alone, and is misuse while `Busy` holds
(R76, R722). -/
structure ShellTouches (s u : State) (d : Fin 2) : Prop where
  rest : u = { s with disc := u.disc, backing := u.backing, misuse := u.misuse }
  misuse :
    u.misuse = (s.misuse || (s.status.getLsbD 7 || (s.sched.trigger.isSome && !s.sched.unloadPending)))
  other : ∀ d', d' ≠ d → u.disc[d'] = s.disc[d'] ∧ u.backing[d'] = s.backing[d']

/-- A file that holds exactly these bytes (R71). -/
def FileHolds (f : File) (bytes : List Byte) : Prop :=
  f.length = bytes.length ∧ ∀ k, Memory.read f.bytes k = bytes.getD k 0x00

/-- The shell operation from `s` to `u` has left drive `d` empty (R117, R133). -/
structure DriveEmptied (s u : State) (d : Fin 2) : Prop where
  touches : ShellTouches s u d
  disc : u.disc[d] = { path := "", kind := .ssd, writable := false, headsCode := 1, totalTracks := 0,
                       tracks := u.disc[d].tracks }
  tracks : ∀ (h : Fin 2) (t : Fin 80), trackAt u ⟨d, h, t⟩ = ⟨false, 0, 0, (0, 0, 0), []⟩
  file : FileHolds u.backing[d] []

/-- The track at `a` is the one `Track10` makes from the file offset `base` (R130). -/
structure RawTrackHolds (u : State) (a : TrackAddr) (bytes : List Byte) (base : Nat) : Prop where
  header : trackAt u a = ⟨true, 10, 10, (0, 0, 0), (trackAt u a).sectors⟩
  sector : ∀ i, i < 10 →
    ∃ x, (trackAt u a).sectorAt i = some x ∧
      x = { id := ⟨BitVec.ofNat 8 a.track.val, BitVec.ofNat 8 a.head.val, BitVec.ofNat 8 i, 0x01⟩
            pcyl := a.track.val, record := i, idSize := 256, realSize := 256, error := 0x00, data := x.data }
  bytes : ∀ i k, i < 10 → k < 256 → discRead u ⟨a, i, k⟩ = some (bytes.getD (base + 256 * i + k) 0x00)

/-! FSD images as they are written (R132), to say what the loader reads back. -/

/-- One sector of an FSD image. Its last three parts are in the file only where its track carries data. -/
structure FsdSector where
  id : IdField
  realCode : Byte
  error : Byte
  data : List Byte
deriving DecidableEq, Repr

/-- One track of an FSD image; `readable` is in the file only where the track has sectors. -/
structure FsdTrack where
  trackId : Byte
  readable : Byte
  sectors : List FsdSector
deriving DecidableEq, Repr

/-- An FSD image: its eight header bytes, its title, its tracks. -/
structure FsdImage where
  header : List Byte
  title : List Byte
  tracks : List FsdTrack
deriving DecidableEq, Repr

/-- A track carries data where its `readable` byte is 255 (R132). -/
def FsdTrack.stored (tr : FsdTrack) : Bool := tr.readable == 0xFF

/-- A sector's bytes in the file. -/
def FsdSector.bytes (stored : Bool) (x : FsdSector) : List Byte :=
  x.id.track :: x.id.head :: x.id.sector :: x.id.sizeCode ::
    (if stored then x.realCode :: x.error :: x.data else [])

/-- A track's bytes in the file. -/
def FsdTrack.bytes (tr : FsdTrack) : List Byte :=
  tr.trackId :: BitVec.ofNat 8 tr.sectors.length ::
    (if tr.sectors.isEmpty then [] else tr.readable :: tr.sectors.flatMap (FsdSector.bytes tr.stored))

/-- An image's bytes: header, title, null, last track number, tracks. -/
def FsdImage.bytes (m : FsdImage) : List Byte :=
  m.header ++ (m.title ++ 0x00 :: BitVec.ofNat 8 (m.tracks.length - 1) :: m.tracks.flatMap FsdTrack.bytes)

/-- The image can be written in the format's bytes: an eight-byte header, no null in the title, a last track number and
sector counts of one byte, and, for each real-size code R111 defines, as many data bytes as it says. -/
structure FsdImage.Shaped (m : FsdImage) : Prop where
  header : m.header.length = 8
  title : ∀ c ∈ m.title, c ≠ 0x00
  tracks : 1 ≤ m.tracks.length ∧ m.tracks.length ≤ 256
  counts : ∀ tr ∈ m.tracks, tr.sectors.length ≤ 255
  lengths : ∀ tr ∈ m.tracks, tr.stored = true → ∀ x ∈ tr.sectors, x.realCode.toNat ≤ 4 →
    x.data.length = 128 * 2 ^ x.realCode.toNat

/-- The image meets R132's checks: its last track number is at most 40 and it has no size code above 4. -/
structure FsdImage.Loadable (m : FsdImage) : Prop where
  last : m.tracks.length - 1 ≤ 40
  idSizes : ∀ tr ∈ m.tracks, ∀ x ∈ tr.sectors, x.id.sizeCode.toNat ≤ 4
  realSizes : ∀ tr ∈ m.tracks, tr.stored = true → ∀ x ∈ tr.sectors, x.realCode.toNat ≤ 4

/-- `LoadFSD` from `s` to `u` has put the image `m` on drive `d` (R132): its tracks from physical track 0 up on head 0,
each sector's bytes where its track carries data, and empty tracks elsewhere. -/
structure FsdMounted (s u : State) (d : Fin 2) (m : FsdImage) (path : String) : Prop where
  touches : ShellTouches s u d
  disc : u.disc[d] = { path := path, kind := .fsd, writable := false, headsCode := 1,
                       totalTracks := m.tracks.length, tracks := u.disc[d].tracks }
  head1 : ∀ t : Fin 80, trackAt u ⟨d, 1, t⟩ = ⟨false, 0, 0, (0, 0, 0), []⟩
  above : ∀ t : Fin 80, m.tracks.length ≤ t.val → trackAt u ⟨d, 0, t⟩ = ⟨false, 0, 0, (0, 0, 0), []⟩
  unformatted : ∀ (t : Fin 80) (tr : FsdTrack), m.tracks[t.val]? = some tr → tr.sectors = [] →
    trackAt u ⟨d, 0, t⟩ = ⟨false, 0, 0, (0, 0, 0), []⟩
  header : ∀ (t : Fin 80) (tr : FsdTrack), m.tracks[t.val]? = some tr → tr.sectors ≠ [] →
    trackAt u ⟨d, 0, t⟩ =
      ⟨tr.stored, tr.sectors.length, tr.sectors.length, (0, 0, 0), (trackAt u ⟨d, 0, t⟩).sectors⟩
  sector : ∀ (t : Fin 80) (tr : FsdTrack) (k : Nat) (x : FsdSector), m.tracks[t.val]? = some tr →
    tr.sectors[k]? = some x →
      ∃ y, (trackAt u ⟨d, 0, t⟩).sectorAt k = some y ∧
        y = { id := x.id, pcyl := t.val, record := k
              idSize := 128 * 2 ^ x.id.sizeCode.toNat
              realSize := if tr.stored = true then 128 * 2 ^ x.realCode.toNat else 0
              error := if tr.stored = true then x.error else 0x00
              data := y.data } ∧
        ∀ j, discRead u ⟨⟨d, 0, t⟩, k, j⟩ = if tr.stored = true then x.data[j]? else none

end Sys2Proof.Machine
end

