-- ==== Sys2Proof/Certificates/Slice0/Obligations.lean ====
section
/-! DEFINITION. The statements for the provers. Equations `exec i s = .next t` give an instruction's completion, its
result and its whole frame at once: whatever `t` does not name is unchanged. The fields `now`, `host`, `returned` and
`draws` are the model's own (log 1, 5, 6, 9). Most rules of the spec are marked there as the spec's own decisions; a
statement that rests on one says so by its `basis` and its docstring. -/

open Sys2Proof Sys2Proof.Machine

/-! Encoding and step. -/

/-- Decoding the host call of a well-formed instruction gives it back, every operand at every value (R200 to R206,
R210, R230). -/
def Obligations.DecodeOfEncodeIsTheInstruction : Prop :=
  ∀ i : Instr, i.wf = true → decode (encode i) = .instr i

/-- A host call that decodes to an instruction is that instruction's encoding, and the instruction is well formed. -/
def Obligations.EncodeOfDecodedIsTheCall : Prop :=
  ∀ (op : HostOp) (i : Instr), decode op = .instr i → encode i = op ∧ i.wf = true

/-- R210, R213, R214: the fallback takes exactly the bytes that no other row matches, and no byte is matched by two of
the rows 1 to 19. -/
def Obligations.FallbackTakesExactlyTheRest : Prop :=
  ∀ v : Byte,
    (decodeCommand v = .unknown ↔ isFallbackByte v = true) ∧
      ((commandTable.dropLast.filter (fun row => row.hits v)).length ≤ 1)

/-- A few command bytes and parameter bytes written out from the spec's encodings (R201, R204, R230 and the vectors V1,
V4, V20, V23, V32) decode to the instructions they stand for. -/
def Obligations.WrittenOutWordsDecode : Prop :=
  decode (.command [0x53, 0x02, 0x05, 0x21]) = .instr (.read 0b01 0x02 0x05 0x21) ∧
    decode (.command [0x4B, 0x03, 0x00, 0x21]) = .instr (.write 0b01 0x03 0x00 0x21) ∧
    decode (.command [0x69, 0x00]) = .instr (.seek 0b01 0x00) ∧
    decode (.command [0xA3, 0x00, 0x15, 0x2A, 0x1B, 0x00]) = .instr (.format 0b10 0x00 0x15 0x2A 0x1B 0x00) ∧
    decode (.command [0x35, 0x0D, 0x0C, 0x0A, 0xC8]) = .instr (.specify 0x0D 0x0C 0x0A 0xC8) ∧
    decode (.command [0x75]) = .instr (.unknown 0x75) ∧
    decode (.writeReg 2 0x01) = .instr (.reset 0x01) ∧
    decode (.readReg 4) = .instr .rddata

/-- R201: the select bits of a command byte and the drive they select once the byte is latched; and its four worked
bytes. -/
def Obligations.SelectBitsChooseTheDrive : Prop :=
  (∀ (s : State) (op : BitVec 6),
    selDrive (latchCommand (commandByte 0b00 op) s) = none ∧
      selDrive (latchCommand (commandByte 0b01 op) s) = some 0 ∧
      selDrive (latchCommand (commandByte 0b10 op) s) = some 1 ∧
      selDrive (latchCommand (commandByte 0b11 op) s) = some 0) ∧
    (decodeCommand 0x53 = .read ∧ decodeCommand 0x4B = .write ∧ decodeCommand 0x69 = .seek ∧
      decodeCommand 0x5B = .readId) ∧
    ∀ (s : State) (v : Byte), v ∈ ([0x53, 0x4B, 0x69, 0x5B] : List Byte) → selDrive (latchCommand v s) = some 0

/-- A step runs the instruction the next host call decodes to, at the cycle the host gives with the call (R10, R11). -/
def Obligations.StepRunsTheDecodedInstruction : Prop :=
  ∀ (s : State) (c : HostCall) (rest : List HostCall) (i : Instr),
    s.host = c :: rest → decode c.op = .instr i → i.wf = true →
      step s = exec i { s with host := rest, now := c.now }

/-- R254: a read of an offset that has no row returns 0x00 and changes nothing. The call's leaving the queue and its cycle
are the model's (log 1). -/
def Obligations.ReadsOfOtherOffsetsReturnZero : Prop :=
  ∀ (s : State) (now : Nat) (rest : List HostCall) (off : BitVec 3), s.cfg.fdcEnabled = true →
    off ∈ ([2, 3, 5, 6, 7] : List (BitVec 3)) → s.host = ⟨now, .readReg off⟩ :: rest →
      step s = .next { s with host := rest, now := now, returned := 0x00 }

/-- R269, R270 (the spec's decisions D48, D49): a write of an offset that has no row does nothing but the unload
scheduling. -/
def Obligations.WritesOfOtherOffsetsOnlyScheduleTheUnload : Prop :=
  ∀ (s : State) (now : Nat) (rest : List HostCall) (off : BitVec 3) (v : Byte), s.cfg.fdcEnabled = true →
    off ∈ ([3, 5, 6, 7] : List (BitVec 3)) → s.host = ⟨now, .writeReg off v⟩ :: rest →
      step s = .next (unloadScheduled { s with host := rest, now := now })

/-! The register window. -/

/-- R251: reading offset 0 returns `status` and changes nothing; offsets 1 and 4 return `result` and `data`. -/
def Obligations.HostReadsReturnStatusResultAndData : Prop :=
  ∀ s : State, s.cfg.fdcEnabled = true →
    exec .rdstat s = .next { s with returned := s.status } ∧
      (∃ u, exec .rdresult s = .next u ∧ u.returned = s.result) ∧
      ∃ u, exec .rddata s = .next u ∧ u.returned = s.data

/-- R252: the NMI line falls with the bit. -/
def Obligations.ReadingResultClearsItAndItsFlags : Prop :=
  ∀ s : State, s.cfg.fdcEnabled = true →
    ∃ u, exec .rdresult s = .next u ∧
      u = { s with returned := s.result, status := s.status &&& ~~~(0x10 ||| 0x08), result := 0x00 } ∧
      resultFull u.status = false ∧ interruptRequest u.status = false ∧ u.nmi = false

/-- R253. -/
def Obligations.ReadingDataClearsItsFlags : Prop :=
  ∀ s : State, s.cfg.fdcEnabled = true →
    ∃ u, exec .rddata s = .next u ∧
      u = { s with returned := s.data, status := s.status &&& ~~~(0x08 ||| 0x04) } ∧
      interruptRequest u.status = false ∧ nonDmaMode u.status = false

/-- R267. -/
def Obligations.WritingDataLoadsItAndClearsItsFlags : Prop :=
  ∀ (s : State) (v : Byte), s.cfg.fdcEnabled = true →
    exec (.wrdata v) s =
      .next (unloadScheduled { s with data := v, status := s.status &&& ~~~(0x08 ||| 0x04) })

/-- R260 to R263 (the spec's decisions D1, D21, D23, D41): a command write latches the command, whatever byte it is; one
whose row takes no parameters then masks `status` with 0x7E and runs the row's setup. -/
def Obligations.CommandWriteLatchesTheCommand : Prop :=
  ∀ (s : State) (v : Byte), s.cfg.fdcEnabled = true →
    let n := paramCount s.cfg.unsupportedParams (decodeCommand v)
    let s1 :=
      { s with
        misuse := s.misuse || busy s
        latch := { s.latch with
          command := v
          entry := some (decodeCommand v)
          paramExpected := n
          paramReceived := 0 }
        ctrl := { s.ctrl with
          select := #v[v.getLsbD 6, v.getLsbD 7]
          driveOut := (v &&& 0xC0) ||| (s.ctrl.driveOut &&& 0x3F) }
        status := s.status ||| 0x90 }
    (n ≠ 0 → exec (.cmd v) s = .next (unloadScheduled s1)) ∧
    (n = 0 →
      exec (.cmd v) s =
        .next (unloadScheduled (runSetup (decodeCommand v) { s1 with status := (s.status ||| 0x90) &&& 0x7E })))

/-- R264 to R266 (the spec's decisions D2, D22): an awaited parameter is stored and counted; the last one runs the
row's setup with `command_busy` clear; one that is not awaited is ignored. -/
def Obligations.ParameterWriteStoresCountsAndStarts : Prop :=
  ∀ (s : State) (v : Byte) (c : Command) (h : s.latch.paramReceived < 16), s.cfg.fdcEnabled = true →
    (s.latch.entry = some c → s.latch.paramReceived + 1 < s.latch.paramExpected →
      exec (.param v) s =
        .next (unloadScheduled
          { s with
            status := s.status &&& 0xFE
            latch := { s.latch with
              params := s.latch.params.set s.latch.paramReceived v h
              paramReceived := s.latch.paramReceived + 1 } })) ∧
    (s.latch.entry = some c → s.latch.paramReceived + 1 = s.latch.paramExpected →
      exec (.param v) s =
        .next (unloadScheduled (runSetup c
          { s with
            status := s.status &&& 0x7E
            latch := { s.latch with
              params := s.latch.params.set s.latch.paramReceived v h
              paramReceived := s.latch.paramReceived + 1 } }))) ∧
    (s.latch.entry = none ∨ s.latch.paramExpected ≤ s.latch.paramReceived →
      exec (.param v) s = .next (unloadScheduled s))

/-- R256 (the spec's decision D34): a disabled controller answers 0xFF to every read at every offset and ignores every
write at every offset, the unload scheduling among its effects. The first clause says so of every instruction but TICK,
the whole commands among them; the other two of a host call to each of the eight offsets, whether or not it has a row of
the table. The call's leaving the queue and its cycle are the model's (log 1). -/
def Obligations.DisabledControllerReadsFFAndIgnoresWrites : Prop :=
  ∀ s : State, s.cfg.fdcEnabled = false →
    (∀ i : Instr, i ≠ .tick →
      exec i s =
        .next (if i = .rdstat ∨ i = .rdresult ∨ i = .rddata then { s with returned := 0xFF } else s)) ∧
    (∀ (now : Nat) (rest : List HostCall) (off : BitVec 3), s.host = ⟨now, .readReg off⟩ :: rest →
      step s = .next { s with host := rest, now := now, returned := 0xFF }) ∧
    ∀ (now : Nat) (rest : List HostCall) (off : BitVec 3) (v : Byte), s.host = ⟨now, .writeReg off v⟩ :: rest →
      step s = .next { s with host := rest, now := now }

/-- R202, R230, R272: a command row is its writes, one by one: the command byte to offset 0, each parameter to
offset 1. -/
def Obligations.CommandIsTheSequenceOfItsWrites : Prop :=
  ∀ (s : State) (i : Instr) (code : Byte) (ps : List Byte), encode i = .command (code :: ps) →
    exec i s = runAll (.cmd code :: ps.map (fun v => .param v)) s

/-! Reset. -/

/-- R700, R701, R80 (the spec's decisions D17, D18): reset, whatever value is written. -/
def Obligations.ResetLeavesWhatTheSpecLists : Prop :=
  ∀ (s : State) (v : Byte), s.cfg.fdcEnabled = true →
    exec (.reset v) s =
      .next
        { s with
          result := 0x00
          status := 0x00
          ctrl := ⟨#v[false, false], 0x00, 0x00, 0x00, 0x00, 0x0000, #v[0x00, 0x00],
            #v[#v[0xFF, 0xFF], #v[0xFF, 0xFF]], 12, 10, 12, 8⟩
          latch := { s.latch with command := 0x00, entry := none, paramExpected := 0, paramReceived := 0 }
          xfer := ⟨0, 0, 0, 0, 0, none, none, 0, false, 0x00⟩
          pos := { s.pos with sectorOverRead := false }
          sched := { s.sched with
            trigger := if s.sched.motorLoaded = true then some (s.now + 4000000) else none
            unloadPending := s.sched.motorLoaded }
          disc := if s.firstResetDone = true then s.disc else #v[emptyDisc, emptyDisc]
          firstResetDone := true }

/-- R80, R704 (the spec's decision D19): whatever the discs held at power-on, the first reset gives the state the model
starts from. -/
def Obligations.FirstResetGivesTheResetState : Prop :=
  ∀ (discs : Vector Disc 2) (v : Byte), exec (.reset v) (State.powerOn discs) = .next State.reset

/-! The immediate commands. -/

/-- R221, R500 (the spec's decisions D24, D57). -/
def Obligations.ReadDriveStatusReportsTheDrive : Prop :=
  ∀ (s : State) (ss : BitVec 2), s.cfg.fdcEnabled = true →
    let s0 := issued (commandByte ss 0x2C) .readStatus [] s
    exec (.rdstatus ss) s =
      .next (unloadScheduled
        { s0 with
          result :=
            0x80
              ||| (if ss.getLsbD 1 then 0x40 else 0x00)
              ||| (if ss.getLsbD 0 then 0x04 else 0x00)
              ||| (if ∃ d, selectedDrive ss = some d ∧ s.disc[d].writable = false then 0x08 else 0x00)
              ||| (if selectedDrive ss ≠ none ∧ s.pos.physicalTrack = 0 then 0x02 else 0x00)
          pos := { s.pos with drdsc := s.pos.drdsc + 1 } })

/-- R510 to R512 (the spec's decision D25): the timing registers, a surface's registers, or nothing. -/
def Obligations.SpecifyLoadsTheSelectedRegisters : Prop :=
  ∀ (s : State) (p0 p1 p2 p3 : Byte), s.cfg.fdcEnabled = true →
    let s0 := issued 0x35 .specify [p0, p1, p2, p3] s
    exec (.specify p0 p1 p2 p3) s =
      .next (unloadScheduled
        (if p0 = 0x0D then
          { s0 with
            ctrl := { s0.ctrl with
              stepRate := p1
              headSettle := p2
              indexCount := p3.extractLsb' 4 4
              headLoad := p3.extractLsb' 0 4 } }
        else if p0 = 0x10 then
          { s0 with
            ctrl := { s0.ctrl with
              badTrack := #v[#v[p1, p2], s.ctrl.badTrack[1]]
              currentTrack := #v[p3, s.ctrl.currentTrack[1]] } }
        else if p0 = 0x18 then
          { s0 with
            ctrl := { s0.ctrl with
              badTrack := #v[s.ctrl.badTrack[0], #v[p1, p2]]
              currentTrack := #v[s.ctrl.currentTrack[0], p3] } }
        else s0))

/-- R220, R520 (the spec's decision D26; the register numbers are the spec's general knowledge, log 16). The output port
reads as the command write has just left it. -/
def Obligations.ReadSpecialReadsTheMappedRegister : Prop :=
  ∀ (s : State) (ss : BitVec 2) (r : Byte), s.cfg.fdcEnabled = true →
    let s0 := issued (commandByte ss 0x3D) .readSpecial [r] s
    exec (.rdspecial ss r) s =
      .next (unloadScheduled
        { s0 with
          result :=
            if r = 0x06 then s.ctrl.scanSector
            else if r = 0x10 then s.ctrl.badTrack[0][0]
            else if r = 0x11 then s.ctrl.badTrack[0][1]
            else if r = 0x12 then s.ctrl.currentTrack[0]
            else if r = 0x13 then s.ctrl.scanCount.extractLsb' 0 8
            else if r = 0x14 then s.ctrl.scanCount.extractLsb' 8 8
            else if r = 0x17 then s.ctrl.mode
            else if r = 0x18 then s.ctrl.badTrack[1][0]
            else if r = 0x19 then s.ctrl.badTrack[1][1]
            else if r = 0x1A then s.ctrl.currentTrack[1]
            else if r = 0x22 then s.ctrl.driveIn
            else if r = 0x23 then (ss ++ (0 : BitVec 6)) ||| (s.ctrl.driveOut &&& 0x3F)
            else 0x00 })

/-- R220, R530 to R532 (the spec's decisions D8, D26, D27). -/
def Obligations.WriteSpecialWritesTheMappedRegister : Prop :=
  ∀ (s : State) (ss : BitVec 2) (r v : Byte), s.cfg.fdcEnabled = true →
    let s0 := issued (commandByte ss 0x3A) .writeSpecial [r, v] s
    exec (.wrspecial ss r v) s =
      .next (unloadScheduled
        (if r = 0x06 then { s0 with ctrl := { s0.ctrl with scanSector := v } }
        else if r = 0x10 then
          { s0 with ctrl := { s0.ctrl with badTrack := #v[#v[v, s.ctrl.badTrack[0][1]], s.ctrl.badTrack[1]] } }
        else if r = 0x11 then
          { s0 with ctrl := { s0.ctrl with badTrack := #v[#v[s.ctrl.badTrack[0][0], v], s.ctrl.badTrack[1]] } }
        else if r = 0x12 then
          { s0 with
            ctrl := { s0.ctrl with currentTrack := #v[v, s.ctrl.currentTrack[1]] }
            pos := { s.pos with
              logicalTrack := v
              usingSpecial := decide (v.toNat ≠ s.pos.physicalTrack.val)
              drdsc := 0 } }
        else if r = 0x13 then
          { s0 with ctrl := { s0.ctrl with scanCount := s.ctrl.scanCount.extractLsb' 8 8 ++ v } }
        else if r = 0x14 then
          { s0 with ctrl := { s0.ctrl with scanCount := v ++ s.ctrl.scanCount.extractLsb' 0 8 } }
        else if r = 0x17 then { s0 with ctrl := { s0.ctrl with mode := v } }
        else if r = 0x18 then
          { s0 with ctrl := { s0.ctrl with badTrack := #v[s.ctrl.badTrack[0], #v[v, s.ctrl.badTrack[1][1]]] } }
        else if r = 0x19 then
          { s0 with ctrl := { s0.ctrl with badTrack := #v[s.ctrl.badTrack[0], #v[s.ctrl.badTrack[1][0], v]] } }
        else if r = 0x1A then { s0 with ctrl := { s0.ctrl with currentTrack := #v[s.ctrl.currentTrack[0], v] } }
        else if r = 0x22 then { s0 with ctrl := { s0.ctrl with driveIn := v } }
        else if r = 0x23 then
          { s0 with ctrl := { s0.ctrl with driveOut := v, select := #v[v.getLsbD 6, v.getLsbD 7] } }
        else s0))

/-- R540, R545 (the spec's decisions D20, D21): an unsupported command issued with as many parameters as its row takes,
and the fallback, do nothing but what issuing a command does. -/
def Obligations.UnsupportedCommandsOnlyIssue : Prop :=
  ∀ (s : State) (ss : BitVec 2) (ps : List Byte) (code : Byte), s.cfg.fdcEnabled = true →
    (ps.length = s.cfg.unsupportedParams[0].val →
      exec (.scan ss ps) s = .next (unloadScheduled (issued (commandByte ss 0x00) .scan ps s))) ∧
    (ps.length = s.cfg.unsupportedParams[1].val →
      exec (.scandel ss ps) s = .next (unloadScheduled (issued (commandByte ss 0x04) .scanDel ps s))) ∧
    (ps.length = s.cfg.unsupportedParams[2].val →
      exec (.write128 ss ps) s = .next (unloadScheduled (issued (commandByte ss 0x0A) .write128 ps s))) ∧
    (ps.length = s.cfg.unsupportedParams[3].val →
      exec (.writedel128 ss ps) s = .next (unloadScheduled (issued (commandByte ss 0x0E) .writeDel128 ps s))) ∧
    (ps.length = s.cfg.unsupportedParams[4].val →
      exec (.writedel ss ps) s = .next (unloadScheduled (issued (commandByte ss 0x0F) .writeDel ps s))) ∧
    (ps.length = s.cfg.unsupportedParams[5].val →
      exec (.read128 ss ps) s = .next (unloadScheduled (issued (commandByte ss 0x12) .read128 ps s))) ∧
    (ps.length = s.cfg.unsupportedParams[6].val →
      exec (.verifydel128 ss ps) s = .next (unloadScheduled (issued (commandByte ss 0x1E) .verifyDel128 ps s))) ∧
    (isFallbackByte code = true →
      exec (.unknown code) s = .next (unloadScheduled (issued code .unknown [] s)))

/-! The setups of the commands that start work. -/

/-- R349, R350, R351, R360, R365, R370 (the spec's decisions D2, D7, D12, D39, D50): a read command that finds its
sector. -/
def Obligations.ReadCommandsStartAtTheSectorFound : Prop :=
  ∀ (s : State) (i : Instr) (f : SectorForm) (a : TrackAddr) (r : Nat) (x : Sector), s.cfg.fdcEnabled = true →
    sectorForm i = some f → isReadCommand f.command = true → Finds s f a r x →
      exec i s = .next (armedAt 160 (sectorStarted f a r x (issued f.code f.command f.params s)))

/-- R350, R400 (the spec's decisions D2, D12, D30): Write Data on a writable disc that finds its sector. -/
def Obligations.WriteDataStartsAtTheSectorFound : Prop :=
  ∀ (s : State) (ss : BitVec 2) (t sec v : Byte) (f : SectorForm) (a : TrackAddr) (r : Nat) (x : Sector),
    s.cfg.fdcEnabled = true → sectorForm (.write ss t sec v) = some f → Finds s f a r x →
      let u := sectorStarted f a r x (issued f.code f.command f.params s)
      exec (.write ss t sec v) s =
        .next (armedAt 160 { u with xfer := { u.xfer with firstWriteInterrupt := true } })

/-- R350, R470 (the spec's decisions D2, D12, D40): Verify that finds its sector shows its stored error until the tick. -/
def Obligations.VerifyShowsTheStoredErrorOfTheSectorFound : Prop :=
  ∀ (s : State) (ss : BitVec 2) (t sec v : Byte) (f : SectorForm) (a : TrackAddr) (r : Nat) (x : Sector),
    s.cfg.fdcEnabled = true → sectorForm (.verify ss t sec v) = some f → Finds s f a r x →
      exec (.verify ss t sec v) s =
        .next (armedAt 50
          { sectorStarted f a r x (issued f.code f.command f.params s) with result := x.error })

/-- R350, R600, R603 (the spec's decisions D2, D5, D7, D30): the errors of a sector command's setup, in the order of its
checks: 0x10 no drive, 0x12 not writable (Write Data), 0x18 no track, 0x18 not readable, 0x18 no sector. -/
def Obligations.SectorCommandSetupErrorsInOrder : Prop :=
  ∀ (s : State) (i : Instr) (f : SectorForm), s.cfg.fdcEnabled = true → sectorForm i = some f →
    let s0 := issued f.code f.command f.params s
    let s1 := { s0 with pos := (resolveTrack f.t s).pos }
    (selectedDrive f.ss = none → exec i s = .next (setupRaised 0x10 s0)) ∧
    ∀ d, selectedDrive f.ss = some d →
      (f.needWritable = true → s.disc[d].writable = false → exec i s = .next (setupRaised 0x12 s0)) ∧
      ((f.needWritable = true → s.disc[d].writable = true) →
        (findTrack (resolveTrack f.t s) d (selHead s) f.t = none → exec i s = .next (setupRaised 0x18 s1)) ∧
        ∀ p, findTrack (resolveTrack f.t s) d (selHead s) f.t = some p →
          ((trackAt s ⟨d, selHead s, p⟩).readable = false →
            exec i s = .next (setupRaised 0x18 { s1 with pos := { s1.pos with physicalTrack := p } })) ∧
          ((trackAt s ⟨d, selHead s, p⟩).readable = true →
            findSector (trackAt s ⟨d, selHead s, p⟩) f.sec (resolveTrack f.t s).pos.positionInTrack = none →
            exec i s =
              .next (setupRaised 0x18
                { s1 with
                  pos := { s1.pos with physicalTrack := p }
                  xfer := { s1.xfer with
                    trackAddr := f.t
                    sectorId := f.sec
                    requestedLength := 2 ^ (7 + f.v.toNat / 32)
                    sectorsToGo := ((f.v.toNat % 32 : Nat) : Int) } })))

/-- R349 (the spec's decisions D7, D8): the four steps of `ResolveTrack`, in order, and nothing else. -/
def Obligations.ResolveTrackFollowsItsFourSteps : Prop :=
  ∀ (s : State) (t : Byte),
    resolveTrack t s =
      { s with
        pos := { s.pos with
          physicalTrack :=
            if 1 < s.pos.drdsc then 0
            else if s.pos.usingSpecial = true then s.pos.physicalTrack
            else ⟨min t.toNat 79, by omega⟩
          positionInTrack := if t = s.pos.logicalTrack then s.pos.positionInTrack else 0
          logicalTrack := t
          drdsc := 0 } }

/-- R120 (the spec's decision D43): the two-track window; a track matches when its first sector's ID carries the logical
track asked for. -/
def Obligations.TrackLookupUsesTheTwoTrackWindow : Prop :=
  ∀ (s : State) (d h : Fin 2) (t : Byte) (p : Fin 80),
    findTrack s d h t = some p ↔
      (∃ x, (trackAt s ⟨d, h, p⟩).sectorAt 0 = some x ∧ x.id.track = t) ∧
        (p = s.pos.physicalTrack ∨
          (p.val = s.pos.physicalTrack.val + 1 ∧
            ∀ x, (trackAt s ⟨d, h, s.pos.physicalTrack⟩).sectorAt 0 = some x → x.id.track ≠ t))

/-- R121: on a well-kept track the sector found carries the ID asked for and is the nearest one going round from the
position; none is found only where no sector carries it. -/
def Obligations.SectorLookupFindsTheNearestCopy : Prop :=
  ∀ (tr : Track) (x : Byte) (p : Nat), tr.Kept →
    (∀ r, findSector tr x p = some r →
      (∃ y, tr.sectorAt r = some y ∧ y.id.sector = x) ∧
        ∀ j z, tr.sectorAt j = some z → z.id.sector = x →
          (if p ≤ r then r - p else tr.nSectors - p + r) ≤ (if p ≤ j then j - p else tr.nSectors - p + j)) ∧
    (findSector tr x p = none → ∀ j z, tr.sectorAt j = some z → z.id.sector ≠ x)

/-- R205, R450 (the spec's decisions D12, D28): Read ID that finds its track, and its two errors. -/
def Obligations.ReadIdStartsAtTheTrackFound : Prop :=
  ∀ (s : State) (ss : BitVec 2) (t p1 n : Byte), s.cfg.fdcEnabled = true →
    let s0 := issued (commandByte ss 0x1B) .readId [t, p1, n] s
    let s1 := { s0 with pos := (resolveTrack t s).pos }
    (selectedDrive ss = none → exec (.readid ss t p1 n) s = .next (setupRaised 0x10 s0)) ∧
    ∀ d, selectedDrive ss = some d →
      (findTrack (resolveTrack t s) d (selHead s) t = none →
        exec (.readid ss t p1 n) s = .next (setupRaised 0x18 s1)) ∧
      ∀ p, findTrack (resolveTrack t s) d (selHead s) t = some p →
        exec (.readid ss t p1 n) s =
          .next (armedAt 160
            { s1 with
              status := 0x80
              pos := { s1.pos with physicalTrack := p }
              xfer := { s1.xfer with
                trackAddr := t
                sectorsToGo := if n = 0 then 32 else ((n.toNat : Nat) : Int)
                curTrack := some ⟨d, selHead s, p⟩
                byteIndex := 0 } })

/-- R420, R421, R603 (the spec's decisions D5, D29): Format's checks in order, and its start on the physical track. -/
def Obligations.FormatChecksInOrderAndStarts : Prop :=
  ∀ (s : State) (ss : BitVec 2) (t g3 v g5 g1 : Byte), s.cfg.fdcEnabled = true →
    let i := Instr.format ss t g3 v g5 g1
    let s0 := issued (commandByte ss 0x23) .format [t, g3, v, g5, g1] s
    let s1 := { s0 with pos := (resolveTrack t s).pos }
    (selectedDrive ss = none → exec i s = .next (setupRaised 0x10 s0)) ∧
    ∀ d, selectedDrive ss = some d →
      (s.disc[d].writable = false → exec i s = .next (setupRaised 0x12 s0)) ∧
      (s.disc[d].writable = true →
        (v ≠ 0x2A → exec i s = .next (setupRaised 0x1E s0)) ∧
        (v = 0x2A →
          let a : TrackAddr := ⟨d, selHead s, (resolveTrack t s).pos.physicalTrack⟩
          ((trackAt s a).nSectors < 10 → exec i s = .next (setupRaised 0x18 s1)) ∧
          (10 ≤ (trackAt s a).nSectors →
            exec i s =
              .next (armedAt 160
                { setTrack s1 a { trackAt s a with logicalSectors := 10 } with
                  status := 0x80
                  xfer := { s1.xfer with
                    trackAddr := t
                    requestedLength := 256
                    sectorLength := 256
                    sectorsToGo := 10
                    curTrack := some a
                    curSector := some 0
                    byteIndex := 0
                    firstWriteInterrupt := true } }))))

/-- R480 (the spec's decisions D5, D37, D38): Seek, and its one error. -/
def Obligations.SeekMovesTheHeadAndLatchesTheTrack : Prop :=
  ∀ (s : State) (ss : BitVec 2) (t : Byte), s.cfg.fdcEnabled = true →
    let s0 := issued (commandByte ss 0x29) .seek [t] s
    (selectedDrive ss = none → exec (.seek ss t) s = .next (setupRaised 0x10 s0)) ∧
    ∀ d, selectedDrive ss = some d →
      exec (.seek ss t) s =
        .next (armedAt 50
          { s0 with
            status := 0x80
            ctrl := { s0.ctrl with currentTrack := s.ctrl.currentTrack.set d t }
            pos := { s.pos with
              physicalTrack := ⟨min t.toNat 79, by omega⟩
              usingSpecial := false
              positionInTrack := 0
              drdsc := 0 } })

/-! The tick. -/

/-- R311: a tick posts a pending command error and does nothing else but the unload scheduling. -/
def Obligations.TickPostsTheDeferredError : Prop :=
  ∀ s : State, TickDue s → MotorQuiet s → s.xfer.nextInterruptIsErr ∉ ([0x00, 0x0E, 0x20] : List Byte) →
    exec .tick s =
      .next (unloadScheduled
        { ticked s with
          result := s.xfer.nextInterruptIsErr
          status := 0x18
          xfer := { s.xfer with nextInterruptIsErr := 0x00 } })

/-- R320 to R323 (the spec's decisions D14, D16): with the motor model on, a tick that finds motor work does only that:
the unload, the head load, or the head's whole movement. The three delays are open (log 8). -/
def Obligations.TickDoesOneMotorStep : Prop :=
  ∀ s : State, TickDue s → s.cfg.motorModelEnabled = true →
    (s.sched.unloadPending = true →
      exec .tick s =
        .next
          { ticked s with
            ctrl := { s.ctrl with select := #v[false, false], driveOut := s.ctrl.driveOut &&& 0x3F }
            sched := { s.sched with trigger := none, motorLoaded := false, unloadPending := false } }) ∧
    (s.sched.unloadPending = false → ∀ d, selDrive s = some d →
      (s.sched.motorLoaded = false →
        exec .tick s =
          .next (armedAt Config.headLoadDelay
            { ticked s with sched := { s.sched with motorLoaded := true } })) ∧
      (s.sched.motorLoaded = true →
        (s.sched.headPosition[d] + 1 = s.pos.physicalTrack.val ∨
            s.pos.physicalTrack.val + 1 = s.sched.headPosition[d] →
          exec .tick s =
            .next (armedAt Config.stepDelayOne
              { ticked s with
                sched := { s.sched with headPosition := s.sched.headPosition.set d s.pos.physicalTrack.val } })) ∧
        (∀ delta, 1 < delta →
          (s.sched.headPosition[d] + delta = s.pos.physicalTrack.val ∨
            s.pos.physicalTrack.val + delta = s.sched.headPosition[d]) →
          exec .tick s =
            .next (armedAt (Config.seekDelayPerTrack * delta)
              { ticked s with
                sched := { s.sched with headPosition := s.sched.headPosition.set d s.pos.physicalTrack.val } }))))

/-- R305, R306 (the spec's decision D44): a tick whose latched row has no tick handler, or with no row latched, sets
`interrupt_request` and schedules the unload. -/
def Obligations.TickWithoutHandlerOnlyInterrupts : Prop :=
  ∀ s : State, TickDue s → MotorQuiet s → s.xfer.nextInterruptIsErr = 0x00 →
    (∀ c, s.latch.entry = some c →
      c ∉ ([.write, .read, .readDel128, .readDel, .readId, .verify, .format, .seek] : List Command)) →
      exec .tick s = .next (unloadScheduled { ticked s with status := s.status ||| 0x08 })

/-- R307 (the spec's decision D56): a tick before its time, or with nothing armed, is misuse, and otherwise runs as a
tick that is due. -/
def Obligations.EarlyTickIsMisuseAndRuns : Prop :=
  ∀ s : State, ¬ TickDue s →
    exec .tick s = exec .tick { s with misuse := true, sched := { s.sched with trigger := some s.now } }

/-- R352 (the spec's decision D39): the nine cases of the read result, the first that matches winning, on the vectors'
terms (V10). -/
def Obligations.ReadResultFollowsTheNineCases : Prop :=
  ∀ (x : Sector) (len : Nat) (o : Bool),
    (x.error = 0x00 → x.realSize ≠ len → readResult x len o = (0x0E, false)) ∧
    (x.error = 0x00 → x.realSize = len → o = false → readResult x len o = (0x00, false)) ∧
    (x.error = 0x00 → x.realSize = len → o = true → readResult x len o = (0x0E, false)) ∧
    (x.error = 0x20 → x.realSize ≠ len ∨ o = true → readResult x len o = (0x2E, false)) ∧
    (x.error = 0x20 → x.realSize = len → o = false → readResult x len o = (0x20, false)) ∧
    (x.error = 0x2E → o = true ∨ x.idSize ≠ len → readResult x len o = (0x2E, false)) ∧
    (x.error = 0x2E → o = false → x.idSize = len → readResult x len o = (0x20, false)) ∧
    (x.error = 0xE1 → readResult x len o = (if len = 256 then 0x00 else 0x0E, false)) ∧
    (x.error = 0xE0 → readResult x len o = (if len = 128 then 0x00 else 0x0E, false)) ∧
    (x.error = 0x0E → readResult x len o = (0x0E, decide (x.realSize = x.idSize))) ∧
    (x.error ∉ ([0x00, 0x0E, 0x20, 0x2E, 0xE0, 0xE1] : List Byte) → readResult x len o = (x.error, false))

/-- R354 to R356 (the spec's decisions D2, D3, D11, D12): a read tick inside a sector, and the final tick. The shift of a
corrupted byte is a free value (log 9): the statement holds for every one. -/
def Obligations.ReadTickDeliversOneByte : Prop :=
  ∀ (s : State) (c : Command), HandlerTick s c → isReadCommand c = true →
    (s.xfer.sectorsToGo < 0 → exec .tick s = .next (unloadScheduled { ticked s with status := 0x18 })) ∧
    ∀ (a : TrackAddr) (i : Nat) (x : Sector) (b : Byte), 0 ≤ s.xfer.sectorsToGo → At s a i x →
      discRead s ⟨a, i, s.xfer.byteIndex⟩ = some b → s.xfer.byteIndex + 1 < s.xfer.sectorLength →
        exec .tick s = .next (armedAt 160 (delivered x b (ticked s)))

/-- R123, R354 (the spec's decisions D2, D9, D10, D12, D54): the read tick that delivers a sector's last byte goes on to
the next logical sector ID, or raises 0x18 where the track has none, or ends the transfer. -/
def Obligations.ReadTickAtSectorEndAdvancesOrEnds : Prop :=
  ∀ (s : State) (c : Command) (a : TrackAddr) (i : Nat) (x : Sector) (b : Byte), HandlerTick s c →
    isReadCommand c = true → 0 ≤ s.xfer.sectorsToGo → At s a i x →
    discRead s ⟨a, i, s.xfer.byteIndex⟩ = some b → s.xfer.sectorLength ≤ s.xfer.byteIndex + 1 →
      let s1 := passed i (trackAt s a).nSectors (delivered x b (ticked s))
      let next := findSector (trackAt s a) (s.xfer.sectorId + 1) ((i + 1) % (trackAt s a).nSectors)
      (s.xfer.sectorsToGo ≤ 1 → exec .tick s = .next (transferEnded s1)) ∧
      (1 < s.xfer.sectorsToGo → ∀ r y, next = some r → (trackAt s a).sectorAt r = some y →
        exec .tick s = .next (armedAt 160 (movedOn r y s1))) ∧
      (1 < s.xfer.sectorsToGo → next = none →
        exec .tick s =
          .next (armedAt 50
            { s1 with xfer := { s1.xfer with sectorId := s.xfer.sectorId + 1, nextInterruptIsErr := 0x18 } }))

/-- R402, R404, R405 (the spec's decisions D2, D12, D30): a write tick that requests the first byte, one that stores a
byte inside a sector, and the final tick. A stored byte changes that byte of the disc model and no other, no sector's
ID, sizes or error, and nothing a disc says of itself (R630). -/
def Obligations.WriteTickRequestsAndStoresBytes : Prop :=
  ∀ s : State, HandlerTick s .write →
    (s.xfer.sectorsToGo < 0 → exec .tick s = .next (unloadScheduled { ticked s with status := 0x18 })) ∧
    (0 ≤ s.xfer.sectorsToGo → s.xfer.firstWriteInterrupt = true →
      exec .tick s =
        .next (armedAt 160
          { ticked s with status := 0x8C, xfer := { s.xfer with firstWriteInterrupt := false } })) ∧
    ∀ (a : TrackAddr) (i : Nat) (x : Sector), 0 ≤ s.xfer.sectorsToGo → s.xfer.firstWriteInterrupt = false →
      DiscKept s → At s a i x → s.xfer.byteIndex < x.realSize → s.xfer.byteIndex + 1 < s.xfer.sectorLength →
        ∃ u, exec .tick s =
            .next (armedAt 160
              { ticked s with
                status := 0x8C
                disc := u.disc
                xfer := { s.xfer with byteIndex := s.xfer.byteIndex + 1 } }) ∧
          discRead u ⟨a, i, s.xfer.byteIndex⟩ = some s.data ∧
          (∀ b : ByteAddr, b ≠ ⟨a, i, s.xfer.byteIndex⟩ → discRead u b = discRead s b) ∧
          (∀ a', (trackAt u a').headers = (trackAt s a').headers) ∧ AttributesKept s u

/-- R123, R142, R402, R403 (the spec's decisions D2, D9, D10, D12, D31, D54): the write tick that stores a sector's last
byte goes on to the next sector, raises 0x18 where there is none, or writes the track back and ends, or raises 0x12 where
the writeback fails. Whether a file access succeeds, and what a failed one leaves, are free (log 9, log 10). Nothing a
disc says of itself changes (R630). -/
def Obligations.WriteTickAtSectorEndAdvancesOrWritesBack : Prop :=
  ∀ (s : State) (a : TrackAddr) (i : Nat) (x : Sector), HandlerTick s .write → 0 ≤ s.xfer.sectorsToGo →
    s.xfer.firstWriteInterrupt = false → DiscKept s → FilesKept s → At s a i x → s.xfer.byteIndex < x.realSize →
    s.xfer.sectorLength ≤ s.xfer.byteIndex + 1 →
      ∃ u : State,
        discRead u ⟨a, i, s.xfer.byteIndex⟩ = some s.data ∧
        (∀ b : ByteAddr, b ≠ ⟨a, i, s.xfer.byteIndex⟩ → discRead u b = discRead s b) ∧
        (∀ a', (trackAt u a').headers = (trackAt s a').headers) ∧ AttributesKept s u ∧
        (let s1 :=
          passed i (trackAt s a).nSectors
            { ticked s with disc := u.disc, xfer := { s.xfer with byteIndex := s.xfer.byteIndex + 1 } }
        let next := findSector (trackAt s a) (s.xfer.sectorId + 1) ((i + 1) % (trackAt s a).nSectors)
        (1 < s.xfer.sectorsToGo → ∀ r y, next = some r → (trackAt s a).sectorAt r = some y →
          exec .tick s = .next (armedAt 160 { movedOn r y s1 with status := 0x8C })) ∧
        (1 < s.xfer.sectorsToGo → next = none →
          exec .tick s =
            .next (armedAt 50
              { s1 with
                status := 0x8C
                xfer := { s1.xfer with sectorId := s.xfer.sectorId + 1, nextInterruptIsErr := 0x18 } })) ∧
        (s.xfer.sectorsToGo ≤ 1 → WritesBack s a →
          exec .tick s =
            (if Config.writebackOk (ticked s).draws = true then
              .next (transferEnded { s1 with backing := u.backing, result := 0x00 })
            else
              .next (setupRaised 0x12 { s1 with backing := u.backing })) ∧
            WrittenBack (ticked s) u a ∧ ∀ d, d ≠ a.drive → u.backing[d] = s.backing[d]) ∧
        (s.xfer.sectorsToGo ≤ 1 → ¬ WritesBack s a → exec .tick s = .next (setupRaised 0x12 s1)))

/-- R422 (the spec's decisions D2, D29): the format tick that requests the first ID byte, takes one of a sector's first
three, and the final tick. -/
def Obligations.FormatTickTakesIdBytes : Prop :=
  ∀ s : State, HandlerTick s .format →
    (s.xfer.sectorsToGo < 0 → exec .tick s = .next (unloadScheduled { ticked s with status := 0x18 })) ∧
    (0 ≤ s.xfer.sectorsToGo → s.xfer.firstWriteInterrupt = true →
      exec .tick s =
        .next (armedAt 160
          { ticked s with status := 0x8C, xfer := { s.xfer with firstWriteInterrupt := false } })) ∧
    (0 ≤ s.xfer.sectorsToGo → s.xfer.firstWriteInterrupt = false → s.xfer.byteIndex < 3 →
      exec .tick s =
        .next (armedAt 160
          { ticked s with status := 0x8C, xfer := { s.xfer with byteIndex := s.xfer.byteIndex + 1 } }))

/-- R142, R403, R422 (the spec's decisions D2, D29, D31): the format tick that takes a sector's fourth ID byte fills the
sector's whole buffer with 0xE5 and nothing else, nothing a disc says of itself among it (R630), and asks for the next
sector or writes the track back and ends (log 9, log 10). -/
def Obligations.FormatTickFillsTheSector : Prop :=
  ∀ (s : State) (a : TrackAddr) (i : Nat) (x : Sector), HandlerTick s .format → 0 ≤ s.xfer.sectorsToGo →
    s.xfer.firstWriteInterrupt = false → s.xfer.byteIndex = 3 → DiscKept s → FilesKept s → At s a i x →
      ∃ u : State,
        (∀ k, k < x.realSize → discRead u ⟨a, i, k⟩ = some 0xE5) ∧
        (∀ b : ByteAddr, b.track ≠ a ∨ b.sector ≠ i → discRead u b = discRead s b) ∧
        (∀ a', (trackAt u a').headers = (trackAt s a').headers) ∧ AttributesKept s u ∧
        (let s1 :=
          { ticked s with
            disc := u.disc
            xfer := { s.xfer with
              curSector := some (i + 1)
              byteIndex := 0
              sectorsToGo := s.xfer.sectorsToGo - 1 } }
        (1 < s.xfer.sectorsToGo → exec .tick s = .next (armedAt 40960 { s1 with status := 0x8C })) ∧
        (s.xfer.sectorsToGo ≤ 1 → WritesBack s a →
          exec .tick s =
            (if Config.writebackOk (ticked s).draws = true then
              .next (transferEnded { s1 with backing := u.backing, result := 0x00 })
            else
              .next (setupRaised 0x12 { s1 with backing := u.backing })) ∧
            WrittenBack (ticked s) u a ∧ ∀ d, d ≠ a.drive → u.backing[d] = s.backing[d]) ∧
        (s.xfer.sectorsToGo ≤ 1 → ¬ WritesBack s a → exec .tick s = .next (setupRaised 0x12 s1)))

/-- R122, R451, R452 (the spec's decisions D2, D12, D28): a Read ID tick delivers byte 0 to 3 of the ID field at
`position_in_track mod n_sectors`; the fourth moves to the next field or ends the command. -/
def Obligations.ReadIdTickDeliversOneIdByte : Prop :=
  ∀ s : State, HandlerTick s .readId →
    (s.xfer.sectorsToGo < 0 → exec .tick s = .next (unloadScheduled { ticked s with status := 0x18 })) ∧
    ∀ (a : TrackAddr) (x : Sector) (b : Byte), 0 ≤ s.xfer.sectorsToGo → s.xfer.curTrack = some a →
      (trackAt s a).sectorAt (s.pos.positionInTrack % (trackAt s a).nSectors) = some x →
      [x.id.track, x.id.head, x.id.sector, x.id.sizeCode][s.xfer.byteIndex]? = some b →
        let n := (trackAt s a).nSectors
        let s1 := { ticked s with data := b, status := 0x8C }
        let s2 :=
          { s1 with
            pos := { s.pos with positionInTrack := (s.pos.positionInTrack % n + 1) % n }
            xfer := { s.xfer with byteIndex := 0, sectorsToGo := s.xfer.sectorsToGo - 1 } }
        (s.xfer.byteIndex < 3 →
          exec .tick s =
            .next (armedAt 160 { s1 with xfer := { s.xfer with byteIndex := s.xfer.byteIndex + 1 } })) ∧
        (s.xfer.byteIndex = 3 → 1 < s.xfer.sectorsToGo → exec .tick s = .next (armedAt 160 s2)) ∧
        (s.xfer.byteIndex = 3 → s.xfer.sectorsToGo ≤ 1 →
          exec .tick s = .next (transferEnded { s2 with result := 0x00 }))

/-- R470, R480: the tick of Verify and of Seek posts a clean success. -/
def Obligations.VerifyAndSeekTicksPostSuccess : Prop :=
  ∀ (s : State) (c : Command), HandlerTick s c → c = .verify ∨ c = .seek →
    exec .tick s = .next (unloadScheduled { ticked s with result := 0x00, status := 0x18 })

/-! Images. -/

/-- R130 (the spec's decision D32; the sector numbers are its general knowledge, log 16): what `LoadSSD` puts on the
drive, byte for byte, with the file's own bytes as the backing image (log 14); and that it touches nothing else. -/
def Obligations.LoadedSsdHoldsTheImage : Prop :=
  ∀ (s : State) (d h : Fin 2) (t : Fin 80) (bytes : List Byte) (path : String) (w : Bool),
    let u := runShell (.loadSSD d bytes path w) s
    let double : Bool := decide (0x40000 < bytes.length)
    (h = 0 ∨ double = true → RawTrackHolds u ⟨d, h, t⟩ bytes ((t.val + 80 * h.val) * 2560)) ∧
    (h = 1 → double = false → trackAt u ⟨d, h, t⟩ = ⟨false, 0, 0, (0, 0, 0), []⟩) ∧
    u.disc[d] =
      { path := path, kind := .ssd, writable := w, headsCode := if double then 0 else 1, totalTracks := 0
        tracks := u.disc[d].tracks } ∧
    FileHolds u.backing[d] bytes ∧ ShellTouches s u d

/-- R131 (the spec's decision D32): a DSD image is interleaved by track; what `LoadDSD` puts on the drive, with the file's
own bytes as the backing image (log 14, log 16); and that it touches nothing else. -/
def Obligations.LoadedDsdIsInterleavedByTrack : Prop :=
  ∀ (s : State) (d h : Fin 2) (t : Fin 80) (bytes : List Byte) (path : String) (w : Bool),
    let u := runShell (.loadDSD d bytes path w) s
    RawTrackHolds u ⟨d, h, t⟩ bytes ((2 * t.val + h.val) * 2560) ∧
    u.disc[d] =
      { path := path, kind := .dsd, writable := w, headsCode := 2, totalTracks := 0, tracks := u.disc[d].tracks } ∧
    FileHolds u.backing[d] bytes ∧ ShellTouches s u d

/-- R141: where a track stands in its image's file, by the disc's heads code. -/
def Obligations.TrackOffsetFollowsTheHeadsCode : Prop :=
  ∀ (hc : Fin 3) (h t : Nat),
    ((hc = 1 ∨ hc = 2) → trackOffset hc h t = (hc.val * t + h) * 2560) ∧
      (hc = 0 → trackOffset hc h t = (t + h * 80) * 2560)

/-- R141: the file regions of two different tracks of one image do not overlap, for a double-length SSD and a DSD on both
heads, and for a single-sided SSD on head 0. -/
def Obligations.TrackRegionsAreDisjoint : Prop :=
  ∀ (hc : Fin 3) (h t h' t' : Nat), h < 2 → h' < 2 → t < 80 → t' < 80 → (hc = 1 → h = 0 ∧ h' = 0) →
    (h, t) ≠ (h', t') →
      trackOffset hc h t + 2560 ≤ trackOffset hc h' t' ∨ trackOffset hc h' t' + 2560 ≤ trackOffset hc h t

/-! Whole-machine rules. -/

/-- Every step keeps a well-kept state: R31 (reserved status bits), R38 (the mirrored select bits), R35 and R36 (the
latch), R310 and R312 (the deferred error), R50 (the count), R304 and R325 (the scheduler), R115 (the tracks), and the
canonical form of every memory. -/
def Obligations.EveryStepKeepsTheState : Prop :=
  ∀ s u : State, Kept s → step s = .next u → Kept u

/-- The state after reset is well kept. -/
def Obligations.ResetStateIsKept : Prop := Kept State.reset

/-- R41, R51, R75, R260, R307, R722: a host that never misuses the block always finds a running command ready for its
next tick. -/
def Obligations.WithoutMisuseEveryTransferIsReady : Prop :=
  ∀ s u : State, Kept s → TransferReady s → step s = .next u → TransferReady u

/-- The state after reset is ready: nothing is armed. -/
def Obligations.ResetStateIsReady : Prop := TransferReady State.reset

/-- R51, R101, R722: without misuse no tick meets a track, sector or byte that does not exist, so none of the free
values of log 11 is used: the byte a read or write tick works on exists, the sector a format tick fills, the ID field a
Read ID tick reports, and the sector at the record a lookup of the next one answers. -/
def Obligations.WithoutMisuseNoTickMeetsAMissingByte : Prop :=
  ∀ (s : State) (c : Command), Kept s → TransferReady s → s.misuse = false → HandlerTick s c →
    s.sched.unloadPending = false → 0 ≤ s.xfer.sectorsToGo →
      ((isReadCommand c = true ∨ c = .write) →
        ∃ a i x b, At s a i x ∧ discRead s ⟨a, i, s.xfer.byteIndex⟩ = some b ∧
          ∀ id p r, findSector (trackAt s a) id p = some r → ∃ y, (trackAt s a).sectorAt r = some y) ∧
      (c = .format → ∃ a i x, At s a i x) ∧
      (c = .readId →
        ∃ a x b, s.xfer.curTrack = some a ∧ 0 < (trackAt s a).nSectors ∧
          (trackAt s a).sectorAt (s.pos.positionInTrack % (trackAt s a).nSectors) = some x ∧
          [x.id.track, x.id.head, x.id.sector, x.id.sizeCode][s.xfer.byteIndex]? = some b)

/-- R100, R174, R175, R630: only ticks store to the disc model and only ticks write a backing image; every other
instruction but a reset leaves every byte of both as it was. No instruction, a tick among them, changes what a disc says
of itself, its writable flag in particular: only the shell does, and the first reset, which empties the drives. -/
def Obligations.OnlyTicksStoreAndNoInstructionSetsAttributes : Prop :=
  (∀ (s u : State) (i : Instr), i ≠ .tick → (∀ v, i ≠ .reset v) → exec i s = .next u →
    (∀ b : ByteAddr, discRead u b = discRead s b) ∧ u.backing = s.backing) ∧
  ∀ (s u : State) (i : Instr), s.firstResetDone = true ∨ (∀ v, i ≠ .reset v) → exec i s = .next u →
    AttributesKept s u

/-- R271, R611: only a tick raises the NMI line. -/
def Obligations.OnlyTicksRaiseTheInterrupt : Prop :=
  ∀ (s u : State) (i : Instr), i ≠ .tick → exec i s = .next u → u.nmi = true → s.nmi = true

/-- R75, R8, R256: the misuse flag is sticky and the parameters are fixed for a run, whatever the host calls. -/
def Obligations.MisuseIsStickyAndParametersAreFixed : Prop :=
  ∀ s u : State, step s = .next u → (s.misuse = true → u.misuse = true) ∧ u.cfg = s.cfg

/-- R265 (the part of C8 that concerns the parameter writes and the setup they end in): from the state in which a command of one parameter or more is latched, `command_busy` stays set over every
parameter write that does not complete it, and a setup that starts work or raises an error leaves it set. -/
def Obligations.CommandBusyStaysSetOverParametersAndSetup : Prop :=
  ∀ (s u : State) (v : Byte) (c : Command), s.cfg.fdcEnabled = true → s.latch.entry = some c →
    s.latch.paramReceived < s.latch.paramExpected → commandBusy s.status = true → exec (.param v) s = .next u →
      (u.latch.paramReceived < u.latch.paramExpected ∨
          c ∈ ([.write, .read, .readDel128, .readDel, .readId, .verify, .format, .seek] : List Command)) →
        commandBusy u.status = true

/-- R132, R133, R720 to R722 (the spec's decisions D33, D36): the shell's other operations. Loading an image that meets
R132's checks gives exactly its tracks, whatever follows them in the file (log 14); loading one that fails a check, or
that ends too early, leaves the drive empty, and so does ejecting; the writable flag changes alone. Each is the host's own
call (log 1). -/
def Obligations.ShellLoadsFsdEjectsAndSetsWritable : Prop :=
  (∀ (s : State) (d : Fin 2) (m : FsdImage) (after : List Byte) (path : String), m.Shaped →
    let u := runShell (.loadFSD d (m.bytes ++ after) path) s
    (m.Loadable → FsdMounted s u d m path ∧ FileHolds u.backing[d] (m.bytes ++ after)) ∧
      (¬ m.Loadable → DriveEmptied s u d)) ∧
  (∀ (s : State) (d : Fin 2) (m : FsdImage) (n : Nat) (path : String), m.Shaped → m.Loadable → n < m.bytes.length →
    DriveEmptied s (runShell (.loadFSD d (m.bytes.take n) path) s) d) ∧
  (∀ (s : State) (d : Fin 2), DriveEmptied s (runShell (.eject d) s) d) ∧
  (∀ (s : State) (d : Fin 2) (w : Bool),
    let u := runShell (.setWritable d w) s
    u.disc[d] = { s.disc[d] with writable := w } ∧ u.backing[d] = s.backing[d] ∧ ShellTouches s u d) ∧
  ∀ (s : State) (now : Nat) (op : ShellOp) (rest : List HostCall), s.host = ⟨now, .shell op⟩ :: rest →
    step s = .next (runShell op { s with host := rest, now := now })
end

