-- ==== Sys2Proof/Laws/Memory.lean ====
section
/-! SUPPORT. The laws of memory: a read after a write, and the canonical form that every memory operation keeps. -/

namespace Sys2Proof.Machine

@[simp] theorem Memory.read_nil (a : Nat) : Memory.read [] a = 0x00 := rfl
@[simp] theorem Memory.writeBytes_nil (m : Memory) (a : Nat) : Memory.writeBytes m a [] = m := rfl
@[simp] theorem Memory.writeBytes_cons (m : Memory) (a : Nat) (v : Byte) (vs : List Byte) :
    Memory.writeBytes m a (v :: vs) = Memory.writeBytes (Memory.write m a v) (a + 1) vs := rfl
@[simp] theorem Memory.ofBytes_nil (a : Nat) : Memory.ofBytes a [] = [] := rfl
@[simp] theorem Memory.length_bytesAt (m : Memory) (a n : Nat) : (Memory.bytesAt m a n).length = n := by
  simp [Memory.bytesAt]

/-- The canonical form as a proposition. -/
theorem Memory.wf_iff (m : Memory) :
    Memory.wf m = true ↔ List.Pairwise (fun x y => x.1 < y.1) m ∧ ∀ c ∈ m, c.2 ≠ 0x00 := by
  simp [Memory.wf]

theorem Memory.wf_nil : Memory.wf [] = true := rfl

theorem Memory.wf_cons (c : Host.Cell) (m : Memory) :
    Memory.wf (c :: m) = true ↔ (∀ d ∈ m, c.1 < d.1) ∧ c.2 ≠ 0x00 ∧ Memory.wf m = true := by
  simp only [Memory.wf_iff, List.pairwise_cons, List.forall_mem_cons]
  tauto

/-- An address below every listed one reads 0x00. -/
theorem Memory.read_of_lt (m : Memory) (a : Nat) (h : ∀ c ∈ m, a < c.1) : Memory.read m a = 0x00 := by
  induction m with
  | nil => rfl
  | cons c m ih =>
    have hc := h c (by simp)
    have hne : a ≠ c.1 := by omega
    obtain ⟨b, w⟩ := c
    simp only [Memory.read]
    rw [if_neg hne]
    exact ih (fun d hd => h d (by simp [hd]))

/-- What a write lists: the written cell, or a cell that was listed. -/
theorem Memory.mem_write (m : Memory) (a : Nat) (v : Byte) (c : Host.Cell) (h : c ∈ Memory.write m a v) :
    c = (a, v) ∨ c ∈ m := by
  induction m with
  | nil => simp only [Memory.write] at h; split at h <;> simp_all
  | cons d m ih =>
    obtain ⟨b, w⟩ := d
    simp only [Memory.write] at h
    split at h
    · split at h
      · exact .inr h
      · rcases List.mem_cons.mp h with h | h
        · exact .inl h
        · exact .inr h
    · split at h
      · split at h
        · exact .inr (List.mem_cons_of_mem _ h)
        · rcases List.mem_cons.mp h with h | h
          · exact .inl h
          · exact .inr (List.mem_cons_of_mem _ h)
      · rcases List.mem_cons.mp h with h | h
        · exact .inr (by simp [h])
        · rcases ih h with h | h
          · exact .inl h
          · exact .inr (List.mem_cons_of_mem _ h)

/-- A write keeps the canonical form. -/
theorem Memory.write_wf (m : Memory) (a : Nat) (v : Byte) (h : Memory.wf m = true) :
    Memory.wf (Memory.write m a v) = true := by
  induction m with
  | nil =>
    simp only [Memory.write]
    split
    · rfl
    · rename_i hv
      rw [Memory.wf_cons]
      exact ⟨by simp, hv, rfl⟩
  | cons c m ih =>
    obtain ⟨b, w⟩ := c
    have hc := (Memory.wf_cons _ _).mp h
    simp only [Memory.write]
    split
    · rename_i hab
      split
      · exact h
      · rename_i hv
        rw [Memory.wf_cons]
        refine ⟨fun d hd => ?_, hv, h⟩
        rcases List.mem_cons.mp hd with hd | hd
        · rw [hd]; exact hab
        · exact Nat.lt_trans hab (hc.1 d hd)
    · split
      · rename_i _ hab
        split
        · exact hc.2.2
        · rename_i hv
          rw [Memory.wf_cons]
          refine ⟨fun d hd => ?_, hv, hc.2.2⟩
          have hbd := hc.1 d hd
          simp only at hbd ⊢
          omega
      · rename_i h1 h2
        rw [Memory.wf_cons]
        refine ⟨fun d hd => ?_, hc.2.1, ih hc.2.2⟩
        rcases Memory.mem_write m a v d hd with hd | hd
        · rw [hd]; simp only; omega
        · exact hc.1 d hd

/-- A read after a write, on a memory in canonical form. -/
theorem Memory.read_write (m : Memory) (a b : Nat) (v : Byte) (h : Memory.wf m = true) :
    Memory.read (Memory.write m a v) b = if b = a then v else Memory.read m b := by
  induction m with
  | nil =>
    simp only [Memory.write]
    split
    · rename_i hv; simp [hv]
    · simp [Memory.read]
  | cons c m ih =>
    obtain ⟨e, w⟩ := c
    have hc := (Memory.wf_cons _ _).mp h
    simp only [Memory.write]
    split
    · rename_i hae
      split
      · rename_i hv
        split
        · rename_i hba
          subst hba
          rw [hv]
          exact Memory.read_of_lt _ _ (by
            intro d hd
            rcases List.mem_cons.mp hd with hd | hd
            · rw [hd]; exact hae
            · exact Nat.lt_trans hae (hc.1 d hd))
        · rfl
      · simp only [Memory.read]
    · split
      · rename_i hae
        subst hae
        split
        · rename_i hv
          split
          · rename_i hba
            subst hba
            rw [hv]
            exact Memory.read_of_lt _ _ (fun d hd => hc.1 d hd)
          · rename_i hba
            simp [Memory.read, hba]
        · by_cases hba : b = a <;> simp [Memory.read, hba]
      · rename_i h1 h2
        simp only [Memory.read, ih hc.2.2]
        by_cases hbe : b = e
        · have : b ≠ a := by omega
          simp [hbe, show e ≠ a by omega]
        · simp [hbe]

/-- A write below a bound keeps every listed address below it. -/
theorem Memory.write_below (m : Memory) (a n : Nat) (v : Byte) (h : Memory.below m n = true) (ha : a < n) :
    Memory.below (Memory.write m a v) n = true := by
  simp only [Memory.below, List.all_eq_true, decide_eq_true_eq] at h ⊢
  intro c hc
  rcases Memory.mem_write m a v c hc with hc | hc
  · rw [hc]; exact ha
  · exact h c hc

theorem Memory.below_mono (m : Memory) (n k : Nat) (h : Memory.below m n = true) (hnk : n ≤ k) :
    Memory.below m k = true := by
  simp only [Memory.below, List.all_eq_true, decide_eq_true_eq] at h ⊢
  exact fun c hc => Nat.lt_of_lt_of_le (h c hc) hnk

/-- The addresses of a memory made of bytes. -/
theorem Memory.mem_ofBytes (a : Nat) (vs : List Byte) (c : Host.Cell) (h : c ∈ Memory.ofBytes a vs) :
    a ≤ c.1 ∧ c.1 < a + vs.length ∧ c.2 ≠ 0x00 := by
  induction vs generalizing a with
  | nil => simp at h
  | cons v vs ih =>
    simp only [Memory.ofBytes] at h
    simp only [List.length_cons]
    split at h
    · have hc := ih (a + 1) h
      exact ⟨by omega, by omega, hc.2.2⟩
    · rename_i hv
      rcases List.mem_cons.mp h with h | h
      · subst h; exact ⟨Nat.le_refl _, by simp only; omega, hv⟩
      · have hc := ih (a + 1) h
        exact ⟨by omega, by omega, hc.2.2⟩

/-- A memory made of bytes is in canonical form. -/
theorem Memory.ofBytes_wf (a : Nat) (vs : List Byte) : Memory.wf (Memory.ofBytes a vs) = true := by
  induction vs generalizing a with
  | nil => rfl
  | cons v vs ih =>
    simp only [Memory.ofBytes]
    split
    · exact ih _
    · rename_i hv
      rw [Memory.wf_cons]
      refine ⟨fun d hd => ?_, hv, ih _⟩
      have := Memory.mem_ofBytes _ _ d hd
      simp only
      omega

theorem Memory.ofBytes_below (vs : List Byte) (n : Nat) (h : vs.length ≤ n) :
    Memory.below (Memory.ofBytes 0 vs) n = true := by
  simp only [Memory.below, List.all_eq_true, decide_eq_true_eq]
  intro c hc
  have := Memory.mem_ofBytes 0 vs c hc
  omega

/-- Reading a memory made of bytes. -/
theorem Memory.read_ofBytes (a b : Nat) (vs : List Byte) (h : a ≤ b) :
    Memory.read (Memory.ofBytes a vs) b = vs.getD (b - a) 0x00 := by
  induction vs generalizing a with
  | nil => simp
  | cons v vs ih =>
    simp only [Memory.ofBytes]
    by_cases hab : b = a
    · subst hab
      split
      · rename_i hv
        rw [Memory.read_of_lt]
        · simp [hv]
        · intro c hc
          have := Memory.mem_ofBytes _ _ c hc
          omega
      · simp [Memory.read]
    · obtain ⟨k, hk⟩ : ∃ k, b - a = k + 1 := ⟨b - a - 1, by omega⟩
      have hk' : b - (a + 1) = k := by omega
      split
      · rw [ih (a + 1) (by omega), hk, hk']; rfl
      · simp only [Memory.read, if_neg hab]
        rw [ih (a + 1) (by omega), hk, hk']; rfl

/-- A run of writes keeps the canonical form. -/
theorem Memory.writeBytes_wf (m : Memory) (a : Nat) (vs : List Byte) (h : Memory.wf m = true) :
    Memory.wf (Memory.writeBytes m a vs) = true := by
  induction vs generalizing m a with
  | nil => exact h
  | cons v vs ih => exact ih _ _ (Memory.write_wf m a v h)

theorem Memory.writeBytes_below (m : Memory) (a n : Nat) (vs : List Byte) (h : Memory.below m n = true)
    (ha : a + vs.length ≤ n) : Memory.below (Memory.writeBytes m a vs) n = true := by
  induction vs generalizing m a with
  | nil => exact h
  | cons v vs ih =>
    simp only [List.length_cons] at ha
    exact ih _ _ (Memory.write_below m a n v h (by omega)) (by omega)

/-- Reading after a run of writes. -/
theorem Memory.read_writeBytes (m : Memory) (a b : Nat) (vs : List Byte) (h : Memory.wf m = true) :
    Memory.read (Memory.writeBytes m a vs) b =
      if a ≤ b ∧ b < a + vs.length then vs.getD (b - a) 0x00 else Memory.read m b := by
  induction vs generalizing m a with
  | nil => simp only [Memory.writeBytes_nil, List.length_nil]; rw [if_neg (by omega)]
  | cons v vs ih =>
    rw [Memory.writeBytes_cons, ih _ _ (Memory.write_wf m a v h), Memory.read_write m a b v h]
    simp only [List.length_cons]
    by_cases hab : b = a
    · subst hab
      rw [if_neg (by omega), if_pos rfl, if_pos (by omega)]
      simp
    · by_cases hin : a + 1 ≤ b ∧ b < a + 1 + vs.length
      · obtain ⟨k, hk⟩ : ∃ k, b - a = k + 1 := ⟨b - a - 1, by omega⟩
        rw [if_pos hin, if_pos (by omega), hk, show b - (a + 1) = k by omega]; rfl
      · rw [if_neg hin, if_neg hab, if_neg (by omega)]

/-- Two memories in canonical form that read alike are equal. -/
theorem Memory.ext_read (m n : Memory) (hm : Memory.wf m = true) (hn : Memory.wf n = true)
    (h : ∀ a, Memory.read m a = Memory.read n a) : m = n := by
  induction m generalizing n with
  | nil =>
    cases n with
    | nil => rfl
    | cons d n =>
      exfalso
      have hd := (Memory.wf_cons _ _).mp hn
      have := h d.1
      obtain ⟨b, w⟩ := d
      simp [Memory.read] at this
      exact hd.2.1 this.symm
  | cons c m ih =>
    have hc := (Memory.wf_cons _ _).mp hm
    cases n with
    | nil =>
      exfalso
      have := h c.1
      obtain ⟨b, w⟩ := c
      simp [Memory.read] at this
      exact hc.2.1 this
    | cons d n =>
      have hd := (Memory.wf_cons _ _).mp hn
      obtain ⟨b, w⟩ := c
      obtain ⟨e, x⟩ := d
      simp only at hc hd
      have hbe : b = e := by
        rcases Nat.lt_trichotomy b e with hlt | heq | hgt
        · exfalso
          have := h b
          rw [Memory.read_of_lt ((e, x) :: n) b] at this
          · simp [Memory.read] at this; exact hc.2.1 this
          · intro y hy
            rcases List.mem_cons.mp hy with hy | hy
            · rw [hy]; exact hlt
            · exact Nat.lt_trans hlt (hd.1 y hy)
        · exact heq
        · exfalso
          have := h e
          rw [Memory.read_of_lt ((b, w) :: m) e] at this
          · simp [Memory.read] at this; exact hd.2.1 this.symm
          · intro y hy
            rcases List.mem_cons.mp hy with hy | hy
            · rw [hy]; exact hgt
            · exact Nat.lt_trans hgt (hc.1 y hy)
      subst hbe
      have hwx : w = x := by simpa [Memory.read] using h b
      subst hwx
      congr 1
      refine ih n hc.2.2 hd.2.2 (fun a => ?_)
      by_cases hab : a = b
      · subst hab
        rw [Memory.read_of_lt m a (fun y hy => hc.1 y hy), Memory.read_of_lt n a (fun y hy => hd.1 y hy)]
      · simpa [Memory.read, hab] using h a

/-- A file made of bytes is in canonical form. -/
theorem File.ofBytes_wf (bs : List Byte) : File.wf (File.ofBytes bs) = true := by
  simp [File.wf, File.ofBytes, Memory.ofBytes_wf, Memory.ofBytes_below bs bs.length (Nat.le_refl _)]

/-- A file write keeps the canonical form. -/
theorem File.write_wf (f : File) (off : Nat) (bs : List Byte) (h : File.wf f = true) :
    File.wf (File.write f off bs) = true := by
  simp only [File.wf, Bool.and_eq_true] at h
  simp only [File.wf, File.write, Bool.and_eq_true]
  exact ⟨Memory.writeBytes_wf _ _ _ h.1,
    Memory.writeBytes_below _ _ _ _ (Memory.below_mono _ _ _ h.2 (Nat.le_max_left _ _)) (Nat.le_max_right _ _)⟩

end Sys2Proof.Machine
end

