-- ==== Sys2Proof/Laws/State.lean ====
section
/-! SUPPORT. What each named update of the state does to each field, so that no later proof unfolds the update: one
lemma per field per update. -/

namespace Sys2Proof.Machine

/-! `arm` (R301). -/

@[simp] theorem arm_status (n : Nat) (s : State) : (arm n s).status = s.status := rfl
@[simp] theorem arm_result (n : Nat) (s : State) : (arm n s).result = s.result := rfl
@[simp] theorem arm_data (n : Nat) (s : State) : (arm n s).data = s.data := rfl
@[simp] theorem arm_latch (n : Nat) (s : State) : (arm n s).latch = s.latch := rfl
@[simp] theorem arm_ctrl (n : Nat) (s : State) : (arm n s).ctrl = s.ctrl := rfl
@[simp] theorem arm_xfer (n : Nat) (s : State) : (arm n s).xfer = s.xfer := rfl
@[simp] theorem arm_pos (n : Nat) (s : State) : (arm n s).pos = s.pos := rfl
@[simp] theorem arm_sched (n : Nat) (s : State) : (arm n s).sched = { s.sched with trigger := some (s.now + n), unloadPending := false } := rfl
@[simp] theorem arm_disc (n : Nat) (s : State) : (arm n s).disc = s.disc := rfl
@[simp] theorem arm_backing (n : Nat) (s : State) : (arm n s).backing = s.backing := rfl
@[simp] theorem arm_firstResetDone (n : Nat) (s : State) : (arm n s).firstResetDone = s.firstResetDone := rfl
@[simp] theorem arm_misuse (n : Nat) (s : State) : (arm n s).misuse = s.misuse := rfl
@[simp] theorem arm_cfg (n : Nat) (s : State) : (arm n s).cfg = s.cfg := rfl
@[simp] theorem arm_now (n : Nat) (s : State) : (arm n s).now = s.now := rfl
@[simp] theorem arm_host (n : Nat) (s : State) : (arm n s).host = s.host := rfl
@[simp] theorem arm_returned (n : Nat) (s : State) : (arm n s).returned = s.returned := rfl
@[simp] theorem arm_draws (n : Nat) (s : State) : (arm n s).draws = s.draws := rfl

/-! `armUnload` (R302). -/

@[simp] theorem armUnload_status (s : State) : (armUnload s).status = s.status := rfl
@[simp] theorem armUnload_result (s : State) : (armUnload s).result = s.result := rfl
@[simp] theorem armUnload_data (s : State) : (armUnload s).data = s.data := rfl
@[simp] theorem armUnload_latch (s : State) : (armUnload s).latch = s.latch := rfl
@[simp] theorem armUnload_ctrl (s : State) : (armUnload s).ctrl = s.ctrl := rfl
@[simp] theorem armUnload_xfer (s : State) : (armUnload s).xfer = s.xfer := rfl
@[simp] theorem armUnload_pos (s : State) : (armUnload s).pos = s.pos := rfl
@[simp] theorem armUnload_sched (s : State) : (armUnload s).sched = { s.sched with trigger := some (s.now + Config.unloadDelay), unloadPending := true } := rfl
@[simp] theorem armUnload_disc (s : State) : (armUnload s).disc = s.disc := rfl
@[simp] theorem armUnload_backing (s : State) : (armUnload s).backing = s.backing := rfl
@[simp] theorem armUnload_firstResetDone (s : State) : (armUnload s).firstResetDone = s.firstResetDone := rfl
@[simp] theorem armUnload_misuse (s : State) : (armUnload s).misuse = s.misuse := rfl
@[simp] theorem armUnload_cfg (s : State) : (armUnload s).cfg = s.cfg := rfl
@[simp] theorem armUnload_now (s : State) : (armUnload s).now = s.now := rfl
@[simp] theorem armUnload_host (s : State) : (armUnload s).host = s.host := rfl
@[simp] theorem armUnload_returned (s : State) : (armUnload s).returned = s.returned := rfl
@[simp] theorem armUnload_draws (s : State) : (armUnload s).draws = s.draws := rfl

/-! `clearTrigger` (R303). -/

@[simp] theorem clearTrigger_status (s : State) : (clearTrigger s).status = s.status := rfl
@[simp] theorem clearTrigger_result (s : State) : (clearTrigger s).result = s.result := rfl
@[simp] theorem clearTrigger_data (s : State) : (clearTrigger s).data = s.data := rfl
@[simp] theorem clearTrigger_latch (s : State) : (clearTrigger s).latch = s.latch := rfl
@[simp] theorem clearTrigger_ctrl (s : State) : (clearTrigger s).ctrl = s.ctrl := rfl
@[simp] theorem clearTrigger_xfer (s : State) : (clearTrigger s).xfer = s.xfer := rfl
@[simp] theorem clearTrigger_pos (s : State) : (clearTrigger s).pos = s.pos := rfl
@[simp] theorem clearTrigger_sched (s : State) : (clearTrigger s).sched = { s.sched with trigger := none } := rfl
@[simp] theorem clearTrigger_disc (s : State) : (clearTrigger s).disc = s.disc := rfl
@[simp] theorem clearTrigger_backing (s : State) : (clearTrigger s).backing = s.backing := rfl
@[simp] theorem clearTrigger_firstResetDone (s : State) : (clearTrigger s).firstResetDone = s.firstResetDone := rfl
@[simp] theorem clearTrigger_misuse (s : State) : (clearTrigger s).misuse = s.misuse := rfl
@[simp] theorem clearTrigger_cfg (s : State) : (clearTrigger s).cfg = s.cfg := rfl
@[simp] theorem clearTrigger_now (s : State) : (clearTrigger s).now = s.now := rfl
@[simp] theorem clearTrigger_host (s : State) : (clearTrigger s).host = s.host := rfl
@[simp] theorem clearTrigger_returned (s : State) : (clearTrigger s).returned = s.returned := rfl
@[simp] theorem clearTrigger_draws (s : State) : (clearTrigger s).draws = s.draws := rfl

/-! `raiseError` (R310). -/

@[simp] theorem raiseError_status (e : Byte) (s : State) : (raiseError e s).status = s.status := rfl
@[simp] theorem raiseError_result (e : Byte) (s : State) : (raiseError e s).result = s.result := rfl
@[simp] theorem raiseError_data (e : Byte) (s : State) : (raiseError e s).data = s.data := rfl
@[simp] theorem raiseError_latch (e : Byte) (s : State) : (raiseError e s).latch = s.latch := rfl
@[simp] theorem raiseError_ctrl (e : Byte) (s : State) : (raiseError e s).ctrl = s.ctrl := rfl
@[simp] theorem raiseError_xfer (e : Byte) (s : State) : (raiseError e s).xfer = { s.xfer with nextInterruptIsErr := e } := rfl
@[simp] theorem raiseError_pos (e : Byte) (s : State) : (raiseError e s).pos = s.pos := rfl
@[simp] theorem raiseError_sched (e : Byte) (s : State) : (raiseError e s).sched = { s.sched with trigger := some (s.now + Config.shortDelay), unloadPending := false } := rfl
@[simp] theorem raiseError_disc (e : Byte) (s : State) : (raiseError e s).disc = s.disc := rfl
@[simp] theorem raiseError_backing (e : Byte) (s : State) : (raiseError e s).backing = s.backing := rfl
@[simp] theorem raiseError_firstResetDone (e : Byte) (s : State) : (raiseError e s).firstResetDone = s.firstResetDone := rfl
@[simp] theorem raiseError_misuse (e : Byte) (s : State) : (raiseError e s).misuse = s.misuse := rfl
@[simp] theorem raiseError_cfg (e : Byte) (s : State) : (raiseError e s).cfg = s.cfg := rfl
@[simp] theorem raiseError_now (e : Byte) (s : State) : (raiseError e s).now = s.now := rfl
@[simp] theorem raiseError_host (e : Byte) (s : State) : (raiseError e s).host = s.host := rfl
@[simp] theorem raiseError_returned (e : Byte) (s : State) : (raiseError e s).returned = s.returned := rfl
@[simp] theorem raiseError_draws (e : Byte) (s : State) : (raiseError e s).draws = s.draws := rfl

/-! `postDeferred` (R311). -/

@[simp] theorem postDeferred_status (e : Byte) (s : State) : (postDeferred e s).status = statusOver := rfl
@[simp] theorem postDeferred_result (e : Byte) (s : State) : (postDeferred e s).result = e := rfl
@[simp] theorem postDeferred_data (e : Byte) (s : State) : (postDeferred e s).data = s.data := rfl
@[simp] theorem postDeferred_latch (e : Byte) (s : State) : (postDeferred e s).latch = s.latch := rfl
@[simp] theorem postDeferred_ctrl (e : Byte) (s : State) : (postDeferred e s).ctrl = s.ctrl := rfl
@[simp] theorem postDeferred_xfer (e : Byte) (s : State) : (postDeferred e s).xfer = { s.xfer with nextInterruptIsErr := 0x00 } := rfl
@[simp] theorem postDeferred_pos (e : Byte) (s : State) : (postDeferred e s).pos = s.pos := rfl
@[simp] theorem postDeferred_sched (e : Byte) (s : State) : (postDeferred e s).sched = s.sched := rfl
@[simp] theorem postDeferred_disc (e : Byte) (s : State) : (postDeferred e s).disc = s.disc := rfl
@[simp] theorem postDeferred_backing (e : Byte) (s : State) : (postDeferred e s).backing = s.backing := rfl
@[simp] theorem postDeferred_firstResetDone (e : Byte) (s : State) : (postDeferred e s).firstResetDone = s.firstResetDone := rfl
@[simp] theorem postDeferred_misuse (e : Byte) (s : State) : (postDeferred e s).misuse = s.misuse := rfl
@[simp] theorem postDeferred_cfg (e : Byte) (s : State) : (postDeferred e s).cfg = s.cfg := rfl
@[simp] theorem postDeferred_now (e : Byte) (s : State) : (postDeferred e s).now = s.now := rfl
@[simp] theorem postDeferred_host (e : Byte) (s : State) : (postDeferred e s).host = s.host := rfl
@[simp] theorem postDeferred_returned (e : Byte) (s : State) : (postDeferred e s).returned = s.returned := rfl
@[simp] theorem postDeferred_draws (e : Byte) (s : State) : (postDeferred e s).draws = s.draws := rfl

/-! `setTrack`: one track of the disc model. -/

@[simp] theorem setTrack_status (s : State) (a : TrackAddr) (tr : Track) : (setTrack s a tr).status = s.status := rfl
@[simp] theorem setTrack_result (s : State) (a : TrackAddr) (tr : Track) : (setTrack s a tr).result = s.result := rfl
@[simp] theorem setTrack_data (s : State) (a : TrackAddr) (tr : Track) : (setTrack s a tr).data = s.data := rfl
@[simp] theorem setTrack_latch (s : State) (a : TrackAddr) (tr : Track) : (setTrack s a tr).latch = s.latch := rfl
@[simp] theorem setTrack_ctrl (s : State) (a : TrackAddr) (tr : Track) : (setTrack s a tr).ctrl = s.ctrl := rfl
@[simp] theorem setTrack_xfer (s : State) (a : TrackAddr) (tr : Track) : (setTrack s a tr).xfer = s.xfer := rfl
@[simp] theorem setTrack_pos (s : State) (a : TrackAddr) (tr : Track) : (setTrack s a tr).pos = s.pos := rfl
@[simp] theorem setTrack_sched (s : State) (a : TrackAddr) (tr : Track) : (setTrack s a tr).sched = s.sched := rfl
@[simp] theorem setTrack_disc (s : State) (a : TrackAddr) (tr : Track) : (setTrack s a tr).disc = s.disc.set a.drive (s.disc[a.drive].setTrack a.head a.track tr) := rfl
@[simp] theorem setTrack_backing (s : State) (a : TrackAddr) (tr : Track) : (setTrack s a tr).backing = s.backing := rfl
@[simp] theorem setTrack_firstResetDone (s : State) (a : TrackAddr) (tr : Track) : (setTrack s a tr).firstResetDone = s.firstResetDone := rfl
@[simp] theorem setTrack_misuse (s : State) (a : TrackAddr) (tr : Track) : (setTrack s a tr).misuse = s.misuse := rfl
@[simp] theorem setTrack_cfg (s : State) (a : TrackAddr) (tr : Track) : (setTrack s a tr).cfg = s.cfg := rfl
@[simp] theorem setTrack_now (s : State) (a : TrackAddr) (tr : Track) : (setTrack s a tr).now = s.now := rfl
@[simp] theorem setTrack_host (s : State) (a : TrackAddr) (tr : Track) : (setTrack s a tr).host = s.host := rfl
@[simp] theorem setTrack_returned (s : State) (a : TrackAddr) (tr : Track) : (setTrack s a tr).returned = s.returned := rfl
@[simp] theorem setTrack_draws (s : State) (a : TrackAddr) (tr : Track) : (setTrack s a tr).draws = s.draws := rfl

/-! `setBacking`: one backing image. -/

@[simp] theorem setBacking_status (s : State) (d : Fin 2) (f : File) : (setBacking s d f).status = s.status := rfl
@[simp] theorem setBacking_result (s : State) (d : Fin 2) (f : File) : (setBacking s d f).result = s.result := rfl
@[simp] theorem setBacking_data (s : State) (d : Fin 2) (f : File) : (setBacking s d f).data = s.data := rfl
@[simp] theorem setBacking_latch (s : State) (d : Fin 2) (f : File) : (setBacking s d f).latch = s.latch := rfl
@[simp] theorem setBacking_ctrl (s : State) (d : Fin 2) (f : File) : (setBacking s d f).ctrl = s.ctrl := rfl
@[simp] theorem setBacking_xfer (s : State) (d : Fin 2) (f : File) : (setBacking s d f).xfer = s.xfer := rfl
@[simp] theorem setBacking_pos (s : State) (d : Fin 2) (f : File) : (setBacking s d f).pos = s.pos := rfl
@[simp] theorem setBacking_sched (s : State) (d : Fin 2) (f : File) : (setBacking s d f).sched = s.sched := rfl
@[simp] theorem setBacking_disc (s : State) (d : Fin 2) (f : File) : (setBacking s d f).disc = s.disc := rfl
@[simp] theorem setBacking_backing (s : State) (d : Fin 2) (f : File) : (setBacking s d f).backing = s.backing.set d f := rfl
@[simp] theorem setBacking_firstResetDone (s : State) (d : Fin 2) (f : File) : (setBacking s d f).firstResetDone = s.firstResetDone := rfl
@[simp] theorem setBacking_misuse (s : State) (d : Fin 2) (f : File) : (setBacking s d f).misuse = s.misuse := rfl
@[simp] theorem setBacking_cfg (s : State) (d : Fin 2) (f : File) : (setBacking s d f).cfg = s.cfg := rfl
@[simp] theorem setBacking_now (s : State) (d : Fin 2) (f : File) : (setBacking s d f).now = s.now := rfl
@[simp] theorem setBacking_host (s : State) (d : Fin 2) (f : File) : (setBacking s d f).host = s.host := rfl
@[simp] theorem setBacking_returned (s : State) (d : Fin 2) (f : File) : (setBacking s d f).returned = s.returned := rfl
@[simp] theorem setBacking_draws (s : State) (d : Fin 2) (f : File) : (setBacking s d f).draws = s.draws := rfl

/-! `finalTick` (R355). -/

@[simp] theorem finalTick_status (s : State) : (finalTick s).status = statusOver := rfl
@[simp] theorem finalTick_result (s : State) : (finalTick s).result = s.result := rfl
@[simp] theorem finalTick_data (s : State) : (finalTick s).data = s.data := rfl
@[simp] theorem finalTick_latch (s : State) : (finalTick s).latch = s.latch := rfl
@[simp] theorem finalTick_ctrl (s : State) : (finalTick s).ctrl = s.ctrl := rfl
@[simp] theorem finalTick_xfer (s : State) : (finalTick s).xfer = s.xfer := rfl
@[simp] theorem finalTick_pos (s : State) : (finalTick s).pos = s.pos := rfl
@[simp] theorem finalTick_sched (s : State) : (finalTick s).sched = s.sched := rfl
@[simp] theorem finalTick_disc (s : State) : (finalTick s).disc = s.disc := rfl
@[simp] theorem finalTick_backing (s : State) : (finalTick s).backing = s.backing := rfl
@[simp] theorem finalTick_firstResetDone (s : State) : (finalTick s).firstResetDone = s.firstResetDone := rfl
@[simp] theorem finalTick_misuse (s : State) : (finalTick s).misuse = s.misuse := rfl
@[simp] theorem finalTick_cfg (s : State) : (finalTick s).cfg = s.cfg := rfl
@[simp] theorem finalTick_now (s : State) : (finalTick s).now = s.now := rfl
@[simp] theorem finalTick_host (s : State) : (finalTick s).host = s.host := rfl
@[simp] theorem finalTick_returned (s : State) : (finalTick s).returned = s.returned := rfl
@[simp] theorem finalTick_draws (s : State) : (finalTick s).draws = s.draws := rfl

/-! `endTransfer` (R354). -/

@[simp] theorem endTransfer_status (s : State) : (endTransfer s).status = statusTerminal := rfl
@[simp] theorem endTransfer_result (s : State) : (endTransfer s).result = s.result := rfl
@[simp] theorem endTransfer_data (s : State) : (endTransfer s).data = s.data := rfl
@[simp] theorem endTransfer_latch (s : State) : (endTransfer s).latch = s.latch := rfl
@[simp] theorem endTransfer_ctrl (s : State) : (endTransfer s).ctrl = s.ctrl := rfl
@[simp] theorem endTransfer_xfer (s : State) : (endTransfer s).xfer = { s.xfer with sectorsToGo := -1 } := rfl
@[simp] theorem endTransfer_pos (s : State) : (endTransfer s).pos = s.pos := rfl
@[simp] theorem endTransfer_sched (s : State) : (endTransfer s).sched = { s.sched with trigger := some (s.now + Config.byteTime), unloadPending := false } := rfl
@[simp] theorem endTransfer_disc (s : State) : (endTransfer s).disc = s.disc := rfl
@[simp] theorem endTransfer_backing (s : State) : (endTransfer s).backing = s.backing := rfl
@[simp] theorem endTransfer_firstResetDone (s : State) : (endTransfer s).firstResetDone = s.firstResetDone := rfl
@[simp] theorem endTransfer_misuse (s : State) : (endTransfer s).misuse = s.misuse := rfl
@[simp] theorem endTransfer_cfg (s : State) : (endTransfer s).cfg = s.cfg := rfl
@[simp] theorem endTransfer_now (s : State) : (endTransfer s).now = s.now := rfl
@[simp] theorem endTransfer_host (s : State) : (endTransfer s).host = s.host := rfl
@[simp] theorem endTransfer_returned (s : State) : (endTransfer s).returned = s.returned := rfl
@[simp] theorem endTransfer_draws (s : State) : (endTransfer s).draws = s.draws := rfl

/-! `scheduleUnload` (R304) touches the scheduler alone. -/

@[simp] theorem scheduleUnload_status (s : State) : (scheduleUnload s).status = s.status := by unfold scheduleUnload; split <;> rfl
@[simp] theorem scheduleUnload_result (s : State) : (scheduleUnload s).result = s.result := by unfold scheduleUnload; split <;> rfl
@[simp] theorem scheduleUnload_data (s : State) : (scheduleUnload s).data = s.data := by unfold scheduleUnload; split <;> rfl
@[simp] theorem scheduleUnload_latch (s : State) : (scheduleUnload s).latch = s.latch := by unfold scheduleUnload; split <;> rfl
@[simp] theorem scheduleUnload_ctrl (s : State) : (scheduleUnload s).ctrl = s.ctrl := by unfold scheduleUnload; split <;> rfl
@[simp] theorem scheduleUnload_xfer (s : State) : (scheduleUnload s).xfer = s.xfer := by unfold scheduleUnload; split <;> rfl
@[simp] theorem scheduleUnload_pos (s : State) : (scheduleUnload s).pos = s.pos := by unfold scheduleUnload; split <;> rfl
@[simp] theorem scheduleUnload_disc (s : State) : (scheduleUnload s).disc = s.disc := by unfold scheduleUnload; split <;> rfl
@[simp] theorem scheduleUnload_backing (s : State) : (scheduleUnload s).backing = s.backing := by unfold scheduleUnload; split <;> rfl
@[simp] theorem scheduleUnload_firstResetDone (s : State) : (scheduleUnload s).firstResetDone = s.firstResetDone := by unfold scheduleUnload; split <;> rfl
@[simp] theorem scheduleUnload_misuse (s : State) : (scheduleUnload s).misuse = s.misuse := by unfold scheduleUnload; split <;> rfl
@[simp] theorem scheduleUnload_cfg (s : State) : (scheduleUnload s).cfg = s.cfg := by unfold scheduleUnload; split <;> rfl
@[simp] theorem scheduleUnload_now (s : State) : (scheduleUnload s).now = s.now := by unfold scheduleUnload; split <;> rfl
@[simp] theorem scheduleUnload_host (s : State) : (scheduleUnload s).host = s.host := by unfold scheduleUnload; split <;> rfl
@[simp] theorem scheduleUnload_returned (s : State) : (scheduleUnload s).returned = s.returned := by unfold scheduleUnload; split <;> rfl
@[simp] theorem scheduleUnload_draws (s : State) : (scheduleUnload s).draws = s.draws := by unfold scheduleUnload; split <;> rfl

/-! `resolveTrack` (R349) touches the positioning state alone. -/

@[simp] theorem resolveTrack_status (t : Byte) (s : State) : (resolveTrack t s).status = s.status := rfl
@[simp] theorem resolveTrack_result (t : Byte) (s : State) : (resolveTrack t s).result = s.result := rfl
@[simp] theorem resolveTrack_data (t : Byte) (s : State) : (resolveTrack t s).data = s.data := rfl
@[simp] theorem resolveTrack_latch (t : Byte) (s : State) : (resolveTrack t s).latch = s.latch := rfl
@[simp] theorem resolveTrack_ctrl (t : Byte) (s : State) : (resolveTrack t s).ctrl = s.ctrl := rfl
@[simp] theorem resolveTrack_xfer (t : Byte) (s : State) : (resolveTrack t s).xfer = s.xfer := rfl
@[simp] theorem resolveTrack_sched (t : Byte) (s : State) : (resolveTrack t s).sched = s.sched := rfl
@[simp] theorem resolveTrack_disc (t : Byte) (s : State) : (resolveTrack t s).disc = s.disc := rfl
@[simp] theorem resolveTrack_backing (t : Byte) (s : State) : (resolveTrack t s).backing = s.backing := rfl
@[simp] theorem resolveTrack_firstResetDone (t : Byte) (s : State) : (resolveTrack t s).firstResetDone = s.firstResetDone := rfl
@[simp] theorem resolveTrack_misuse (t : Byte) (s : State) : (resolveTrack t s).misuse = s.misuse := rfl
@[simp] theorem resolveTrack_cfg (t : Byte) (s : State) : (resolveTrack t s).cfg = s.cfg := rfl
@[simp] theorem resolveTrack_now (t : Byte) (s : State) : (resolveTrack t s).now = s.now := rfl
@[simp] theorem resolveTrack_host (t : Byte) (s : State) : (resolveTrack t s).host = s.host := rfl
@[simp] theorem resolveTrack_returned (t : Byte) (s : State) : (resolveTrack t s).returned = s.returned := rfl
@[simp] theorem resolveTrack_draws (t : Byte) (s : State) : (resolveTrack t s).draws = s.draws := rfl

/-! `setSectorLength` (R351) touches the transfer and positioning states alone. -/

@[simp] theorem setSectorLength_status (s : State) : (setSectorLength s).status = s.status := rfl
@[simp] theorem setSectorLength_result (s : State) : (setSectorLength s).result = s.result := rfl
@[simp] theorem setSectorLength_data (s : State) : (setSectorLength s).data = s.data := rfl
@[simp] theorem setSectorLength_latch (s : State) : (setSectorLength s).latch = s.latch := rfl
@[simp] theorem setSectorLength_ctrl (s : State) : (setSectorLength s).ctrl = s.ctrl := rfl
@[simp] theorem setSectorLength_sched (s : State) : (setSectorLength s).sched = s.sched := rfl
@[simp] theorem setSectorLength_disc (s : State) : (setSectorLength s).disc = s.disc := rfl
@[simp] theorem setSectorLength_backing (s : State) : (setSectorLength s).backing = s.backing := rfl
@[simp] theorem setSectorLength_firstResetDone (s : State) : (setSectorLength s).firstResetDone = s.firstResetDone := rfl
@[simp] theorem setSectorLength_misuse (s : State) : (setSectorLength s).misuse = s.misuse := rfl
@[simp] theorem setSectorLength_cfg (s : State) : (setSectorLength s).cfg = s.cfg := rfl
@[simp] theorem setSectorLength_now (s : State) : (setSectorLength s).now = s.now := rfl
@[simp] theorem setSectorLength_host (s : State) : (setSectorLength s).host = s.host := rfl
@[simp] theorem setSectorLength_returned (s : State) : (setSectorLength s).returned = s.returned := rfl
@[simp] theorem setSectorLength_draws (s : State) : (setSectorLength s).draws = s.draws := rfl

/-! `passSector` (R354) touches the transfer and positioning states alone. -/

@[simp] theorem passSector_status (s : State) : (passSector s).status = s.status := rfl
@[simp] theorem passSector_result (s : State) : (passSector s).result = s.result := rfl
@[simp] theorem passSector_data (s : State) : (passSector s).data = s.data := rfl
@[simp] theorem passSector_latch (s : State) : (passSector s).latch = s.latch := rfl
@[simp] theorem passSector_ctrl (s : State) : (passSector s).ctrl = s.ctrl := rfl
@[simp] theorem passSector_xfer (s : State) : (passSector s).xfer = { s.xfer with sectorsToGo := s.xfer.sectorsToGo - 1 } := rfl
@[simp] theorem passSector_sched (s : State) : (passSector s).sched = s.sched := rfl
@[simp] theorem passSector_disc (s : State) : (passSector s).disc = s.disc := rfl
@[simp] theorem passSector_backing (s : State) : (passSector s).backing = s.backing := rfl
@[simp] theorem passSector_firstResetDone (s : State) : (passSector s).firstResetDone = s.firstResetDone := rfl
@[simp] theorem passSector_misuse (s : State) : (passSector s).misuse = s.misuse := rfl
@[simp] theorem passSector_cfg (s : State) : (passSector s).cfg = s.cfg := rfl
@[simp] theorem passSector_now (s : State) : (passSector s).now = s.now := rfl
@[simp] theorem passSector_host (s : State) : (passSector s).host = s.host := rfl
@[simp] theorem passSector_returned (s : State) : (passSector s).returned = s.returned := rfl
@[simp] theorem passSector_draws (s : State) : (passSector s).draws = s.draws := rfl

/-! `discWrite` (R101) touches the disc model alone. -/

@[simp] theorem discWrite_status (s : State) (a : ByteAddr) (v : Byte) : (discWrite s a v).status = s.status := by unfold discWrite; split <;> (try split) <;> rfl
@[simp] theorem discWrite_result (s : State) (a : ByteAddr) (v : Byte) : (discWrite s a v).result = s.result := by unfold discWrite; split <;> (try split) <;> rfl
@[simp] theorem discWrite_data (s : State) (a : ByteAddr) (v : Byte) : (discWrite s a v).data = s.data := by unfold discWrite; split <;> (try split) <;> rfl
@[simp] theorem discWrite_latch (s : State) (a : ByteAddr) (v : Byte) : (discWrite s a v).latch = s.latch := by unfold discWrite; split <;> (try split) <;> rfl
@[simp] theorem discWrite_ctrl (s : State) (a : ByteAddr) (v : Byte) : (discWrite s a v).ctrl = s.ctrl := by unfold discWrite; split <;> (try split) <;> rfl
@[simp] theorem discWrite_xfer (s : State) (a : ByteAddr) (v : Byte) : (discWrite s a v).xfer = s.xfer := by unfold discWrite; split <;> (try split) <;> rfl
@[simp] theorem discWrite_pos (s : State) (a : ByteAddr) (v : Byte) : (discWrite s a v).pos = s.pos := by unfold discWrite; split <;> (try split) <;> rfl
@[simp] theorem discWrite_sched (s : State) (a : ByteAddr) (v : Byte) : (discWrite s a v).sched = s.sched := by unfold discWrite; split <;> (try split) <;> rfl
@[simp] theorem discWrite_backing (s : State) (a : ByteAddr) (v : Byte) : (discWrite s a v).backing = s.backing := by unfold discWrite; split <;> (try split) <;> rfl
@[simp] theorem discWrite_firstResetDone (s : State) (a : ByteAddr) (v : Byte) : (discWrite s a v).firstResetDone = s.firstResetDone := by unfold discWrite; split <;> (try split) <;> rfl
@[simp] theorem discWrite_misuse (s : State) (a : ByteAddr) (v : Byte) : (discWrite s a v).misuse = s.misuse := by unfold discWrite; split <;> (try split) <;> rfl
@[simp] theorem discWrite_cfg (s : State) (a : ByteAddr) (v : Byte) : (discWrite s a v).cfg = s.cfg := by unfold discWrite; split <;> (try split) <;> rfl
@[simp] theorem discWrite_now (s : State) (a : ByteAddr) (v : Byte) : (discWrite s a v).now = s.now := by unfold discWrite; split <;> (try split) <;> rfl
@[simp] theorem discWrite_host (s : State) (a : ByteAddr) (v : Byte) : (discWrite s a v).host = s.host := by unfold discWrite; split <;> (try split) <;> rfl
@[simp] theorem discWrite_returned (s : State) (a : ByteAddr) (v : Byte) : (discWrite s a v).returned = s.returned := by unfold discWrite; split <;> (try split) <;> rfl
@[simp] theorem discWrite_draws (s : State) (a : ByteAddr) (v : Byte) : (discWrite s a v).draws = s.draws := by unfold discWrite; split <;> (try split) <;> rfl

/-! `discFill` (R422) touches the disc model alone. -/

@[simp] theorem discFill_status (s : State) (t : TrackAddr) (i : Nat) (v : Byte) : (discFill s t i v).status = s.status := by unfold discFill; split <;> rfl
@[simp] theorem discFill_result (s : State) (t : TrackAddr) (i : Nat) (v : Byte) : (discFill s t i v).result = s.result := by unfold discFill; split <;> rfl
@[simp] theorem discFill_data (s : State) (t : TrackAddr) (i : Nat) (v : Byte) : (discFill s t i v).data = s.data := by unfold discFill; split <;> rfl
@[simp] theorem discFill_latch (s : State) (t : TrackAddr) (i : Nat) (v : Byte) : (discFill s t i v).latch = s.latch := by unfold discFill; split <;> rfl
@[simp] theorem discFill_ctrl (s : State) (t : TrackAddr) (i : Nat) (v : Byte) : (discFill s t i v).ctrl = s.ctrl := by unfold discFill; split <;> rfl
@[simp] theorem discFill_xfer (s : State) (t : TrackAddr) (i : Nat) (v : Byte) : (discFill s t i v).xfer = s.xfer := by unfold discFill; split <;> rfl
@[simp] theorem discFill_pos (s : State) (t : TrackAddr) (i : Nat) (v : Byte) : (discFill s t i v).pos = s.pos := by unfold discFill; split <;> rfl
@[simp] theorem discFill_sched (s : State) (t : TrackAddr) (i : Nat) (v : Byte) : (discFill s t i v).sched = s.sched := by unfold discFill; split <;> rfl
@[simp] theorem discFill_backing (s : State) (t : TrackAddr) (i : Nat) (v : Byte) : (discFill s t i v).backing = s.backing := by unfold discFill; split <;> rfl
@[simp] theorem discFill_firstResetDone (s : State) (t : TrackAddr) (i : Nat) (v : Byte) : (discFill s t i v).firstResetDone = s.firstResetDone := by unfold discFill; split <;> rfl
@[simp] theorem discFill_misuse (s : State) (t : TrackAddr) (i : Nat) (v : Byte) : (discFill s t i v).misuse = s.misuse := by unfold discFill; split <;> rfl
@[simp] theorem discFill_cfg (s : State) (t : TrackAddr) (i : Nat) (v : Byte) : (discFill s t i v).cfg = s.cfg := by unfold discFill; split <;> rfl
@[simp] theorem discFill_now (s : State) (t : TrackAddr) (i : Nat) (v : Byte) : (discFill s t i v).now = s.now := by unfold discFill; split <;> rfl
@[simp] theorem discFill_host (s : State) (t : TrackAddr) (i : Nat) (v : Byte) : (discFill s t i v).host = s.host := by unfold discFill; split <;> rfl
@[simp] theorem discFill_returned (s : State) (t : TrackAddr) (i : Nat) (v : Byte) : (discFill s t i v).returned = s.returned := by unfold discFill; split <;> rfl
@[simp] theorem discFill_draws (s : State) (t : TrackAddr) (i : Nat) (v : Byte) : (discFill s t i v).draws = s.draws := by unfold discFill; split <;> rfl

/-! `accept`: the host makes its next call (log 1). -/

@[simp] theorem accept_status (c : HostCall) (rest : List HostCall) (s : State) : (accept c rest s).status = s.status := rfl
@[simp] theorem accept_result (c : HostCall) (rest : List HostCall) (s : State) : (accept c rest s).result = s.result := rfl
@[simp] theorem accept_data (c : HostCall) (rest : List HostCall) (s : State) : (accept c rest s).data = s.data := rfl
@[simp] theorem accept_latch (c : HostCall) (rest : List HostCall) (s : State) : (accept c rest s).latch = s.latch := rfl
@[simp] theorem accept_ctrl (c : HostCall) (rest : List HostCall) (s : State) : (accept c rest s).ctrl = s.ctrl := rfl
@[simp] theorem accept_xfer (c : HostCall) (rest : List HostCall) (s : State) : (accept c rest s).xfer = s.xfer := rfl
@[simp] theorem accept_pos (c : HostCall) (rest : List HostCall) (s : State) : (accept c rest s).pos = s.pos := rfl
@[simp] theorem accept_sched (c : HostCall) (rest : List HostCall) (s : State) : (accept c rest s).sched = s.sched := rfl
@[simp] theorem accept_disc (c : HostCall) (rest : List HostCall) (s : State) : (accept c rest s).disc = s.disc := rfl
@[simp] theorem accept_backing (c : HostCall) (rest : List HostCall) (s : State) : (accept c rest s).backing = s.backing := rfl
@[simp] theorem accept_firstResetDone (c : HostCall) (rest : List HostCall) (s : State) : (accept c rest s).firstResetDone = s.firstResetDone := rfl
@[simp] theorem accept_misuse (c : HostCall) (rest : List HostCall) (s : State) : (accept c rest s).misuse = s.misuse := rfl
@[simp] theorem accept_cfg (c : HostCall) (rest : List HostCall) (s : State) : (accept c rest s).cfg = s.cfg := rfl
@[simp] theorem accept_now (c : HostCall) (rest : List HostCall) (s : State) : (accept c rest s).now = c.now := rfl
@[simp] theorem accept_host (c : HostCall) (rest : List HostCall) (s : State) : (accept c rest s).host = rest := rfl
@[simp] theorem accept_returned (c : HostCall) (rest : List HostCall) (s : State) : (accept c rest s).returned = s.returned := rfl
@[simp] theorem accept_draws (c : HostCall) (rest : List HostCall) (s : State) : (accept c rest s).draws = s.draws := rfl

/-! `startWork` (R350). -/

@[simp] theorem startWork_status (s : State) : (startWork s).status = statusWorking := rfl
@[simp] theorem startWork_result (s : State) : (startWork s).result = s.result := rfl
@[simp] theorem startWork_data (s : State) : (startWork s).data = s.data := rfl
@[simp] theorem startWork_latch (s : State) : (startWork s).latch = s.latch := rfl
@[simp] theorem startWork_ctrl (s : State) : (startWork s).ctrl = s.ctrl := rfl
@[simp] theorem startWork_xfer (s : State) : (startWork s).xfer = s.xfer := rfl
@[simp] theorem startWork_pos (s : State) : (startWork s).pos = s.pos := rfl
@[simp] theorem startWork_sched (s : State) : (startWork s).sched = s.sched := rfl
@[simp] theorem startWork_disc (s : State) : (startWork s).disc = s.disc := rfl
@[simp] theorem startWork_backing (s : State) : (startWork s).backing = s.backing := rfl
@[simp] theorem startWork_firstResetDone (s : State) : (startWork s).firstResetDone = s.firstResetDone := rfl
@[simp] theorem startWork_misuse (s : State) : (startWork s).misuse = s.misuse := rfl
@[simp] theorem startWork_cfg (s : State) : (startWork s).cfg = s.cfg := rfl
@[simp] theorem startWork_now (s : State) : (startWork s).now = s.now := rfl
@[simp] theorem startWork_host (s : State) : (startWork s).host = s.host := rfl
@[simp] theorem startWork_returned (s : State) : (startWork s).returned = s.returned := rfl
@[simp] theorem startWork_draws (s : State) : (startWork s).draws = s.draws := rfl

/-! `headTo` (R120). -/

@[simp] theorem headTo_status (p : Fin 80) (s : State) : (headTo p s).status = s.status := rfl
@[simp] theorem headTo_result (p : Fin 80) (s : State) : (headTo p s).result = s.result := rfl
@[simp] theorem headTo_data (p : Fin 80) (s : State) : (headTo p s).data = s.data := rfl
@[simp] theorem headTo_latch (p : Fin 80) (s : State) : (headTo p s).latch = s.latch := rfl
@[simp] theorem headTo_ctrl (p : Fin 80) (s : State) : (headTo p s).ctrl = s.ctrl := rfl
@[simp] theorem headTo_xfer (p : Fin 80) (s : State) : (headTo p s).xfer = s.xfer := rfl
@[simp] theorem headTo_pos (p : Fin 80) (s : State) : (headTo p s).pos = { s.pos with physicalTrack := p } := rfl
@[simp] theorem headTo_sched (p : Fin 80) (s : State) : (headTo p s).sched = s.sched := rfl
@[simp] theorem headTo_disc (p : Fin 80) (s : State) : (headTo p s).disc = s.disc := rfl
@[simp] theorem headTo_backing (p : Fin 80) (s : State) : (headTo p s).backing = s.backing := rfl
@[simp] theorem headTo_firstResetDone (p : Fin 80) (s : State) : (headTo p s).firstResetDone = s.firstResetDone := rfl
@[simp] theorem headTo_misuse (p : Fin 80) (s : State) : (headTo p s).misuse = s.misuse := rfl
@[simp] theorem headTo_cfg (p : Fin 80) (s : State) : (headTo p s).cfg = s.cfg := rfl
@[simp] theorem headTo_now (p : Fin 80) (s : State) : (headTo p s).now = s.now := rfl
@[simp] theorem headTo_host (p : Fin 80) (s : State) : (headTo p s).host = s.host := rfl
@[simp] theorem headTo_returned (p : Fin 80) (s : State) : (headTo p s).returned = s.returned := rfl
@[simp] theorem headTo_draws (p : Fin 80) (s : State) : (headTo p s).draws = s.draws := rfl

/-! `takeOperands` (R350). -/

@[simp] theorem takeOperands_status (t sec v : Byte) (s : State) : (takeOperands t sec v s).status = s.status := rfl
@[simp] theorem takeOperands_result (t sec v : Byte) (s : State) : (takeOperands t sec v s).result = s.result := rfl
@[simp] theorem takeOperands_data (t sec v : Byte) (s : State) : (takeOperands t sec v s).data = s.data := rfl
@[simp] theorem takeOperands_latch (t sec v : Byte) (s : State) : (takeOperands t sec v s).latch = s.latch := rfl
@[simp] theorem takeOperands_ctrl (t sec v : Byte) (s : State) : (takeOperands t sec v s).ctrl = s.ctrl := rfl
@[simp] theorem takeOperands_xfer (t sec v : Byte) (s : State) : (takeOperands t sec v s).xfer = { s.xfer with trackAddr := t, sectorId := sec, requestedLength := requestedLength v, sectorsToGo := (sectorCount v : Int) } := rfl
@[simp] theorem takeOperands_pos (t sec v : Byte) (s : State) : (takeOperands t sec v s).pos = s.pos := rfl
@[simp] theorem takeOperands_sched (t sec v : Byte) (s : State) : (takeOperands t sec v s).sched = s.sched := rfl
@[simp] theorem takeOperands_disc (t sec v : Byte) (s : State) : (takeOperands t sec v s).disc = s.disc := rfl
@[simp] theorem takeOperands_backing (t sec v : Byte) (s : State) : (takeOperands t sec v s).backing = s.backing := rfl
@[simp] theorem takeOperands_firstResetDone (t sec v : Byte) (s : State) : (takeOperands t sec v s).firstResetDone = s.firstResetDone := rfl
@[simp] theorem takeOperands_misuse (t sec v : Byte) (s : State) : (takeOperands t sec v s).misuse = s.misuse := rfl
@[simp] theorem takeOperands_cfg (t sec v : Byte) (s : State) : (takeOperands t sec v s).cfg = s.cfg := rfl
@[simp] theorem takeOperands_now (t sec v : Byte) (s : State) : (takeOperands t sec v s).now = s.now := rfl
@[simp] theorem takeOperands_host (t sec v : Byte) (s : State) : (takeOperands t sec v s).host = s.host := rfl
@[simp] theorem takeOperands_returned (t sec v : Byte) (s : State) : (takeOperands t sec v s).returned = s.returned := rfl
@[simp] theorem takeOperands_draws (t sec v : Byte) (s : State) : (takeOperands t sec v s).draws = s.draws := rfl

/-! `onTrack` (R350). -/

@[simp] theorem onTrack_status (a : TrackAddr) (s : State) : (onTrack a s).status = s.status := rfl
@[simp] theorem onTrack_result (a : TrackAddr) (s : State) : (onTrack a s).result = s.result := rfl
@[simp] theorem onTrack_data (a : TrackAddr) (s : State) : (onTrack a s).data = s.data := rfl
@[simp] theorem onTrack_latch (a : TrackAddr) (s : State) : (onTrack a s).latch = s.latch := rfl
@[simp] theorem onTrack_ctrl (a : TrackAddr) (s : State) : (onTrack a s).ctrl = s.ctrl := rfl
@[simp] theorem onTrack_xfer (a : TrackAddr) (s : State) : (onTrack a s).xfer = { s.xfer with curTrack := some a } := rfl
@[simp] theorem onTrack_pos (a : TrackAddr) (s : State) : (onTrack a s).pos = s.pos := rfl
@[simp] theorem onTrack_sched (a : TrackAddr) (s : State) : (onTrack a s).sched = s.sched := rfl
@[simp] theorem onTrack_disc (a : TrackAddr) (s : State) : (onTrack a s).disc = s.disc := rfl
@[simp] theorem onTrack_backing (a : TrackAddr) (s : State) : (onTrack a s).backing = s.backing := rfl
@[simp] theorem onTrack_firstResetDone (a : TrackAddr) (s : State) : (onTrack a s).firstResetDone = s.firstResetDone := rfl
@[simp] theorem onTrack_misuse (a : TrackAddr) (s : State) : (onTrack a s).misuse = s.misuse := rfl
@[simp] theorem onTrack_cfg (a : TrackAddr) (s : State) : (onTrack a s).cfg = s.cfg := rfl
@[simp] theorem onTrack_now (a : TrackAddr) (s : State) : (onTrack a s).now = s.now := rfl
@[simp] theorem onTrack_host (a : TrackAddr) (s : State) : (onTrack a s).host = s.host := rfl
@[simp] theorem onTrack_returned (a : TrackAddr) (s : State) : (onTrack a s).returned = s.returned := rfl
@[simp] theorem onTrack_draws (a : TrackAddr) (s : State) : (onTrack a s).draws = s.draws := rfl

/-! `nextId` (R354). -/

@[simp] theorem nextId_status (s : State) : (nextId s).status = s.status := rfl
@[simp] theorem nextId_result (s : State) : (nextId s).result = s.result := rfl
@[simp] theorem nextId_data (s : State) : (nextId s).data = s.data := rfl
@[simp] theorem nextId_latch (s : State) : (nextId s).latch = s.latch := rfl
@[simp] theorem nextId_ctrl (s : State) : (nextId s).ctrl = s.ctrl := rfl
@[simp] theorem nextId_xfer (s : State) : (nextId s).xfer = { s.xfer with sectorId := s.xfer.sectorId + 1 } := rfl
@[simp] theorem nextId_pos (s : State) : (nextId s).pos = s.pos := rfl
@[simp] theorem nextId_sched (s : State) : (nextId s).sched = s.sched := rfl
@[simp] theorem nextId_disc (s : State) : (nextId s).disc = s.disc := rfl
@[simp] theorem nextId_backing (s : State) : (nextId s).backing = s.backing := rfl
@[simp] theorem nextId_firstResetDone (s : State) : (nextId s).firstResetDone = s.firstResetDone := rfl
@[simp] theorem nextId_misuse (s : State) : (nextId s).misuse = s.misuse := rfl
@[simp] theorem nextId_cfg (s : State) : (nextId s).cfg = s.cfg := rfl
@[simp] theorem nextId_now (s : State) : (nextId s).now = s.now := rfl
@[simp] theorem nextId_host (s : State) : (nextId s).host = s.host := rfl
@[simp] theorem nextId_returned (s : State) : (nextId s).returned = s.returned := rfl
@[simp] theorem nextId_draws (s : State) : (nextId s).draws = s.draws := rfl

/-! `nextByte` (R402). -/

@[simp] theorem nextByte_status (s : State) : (nextByte s).status = s.status := rfl
@[simp] theorem nextByte_result (s : State) : (nextByte s).result = s.result := rfl
@[simp] theorem nextByte_data (s : State) : (nextByte s).data = s.data := rfl
@[simp] theorem nextByte_latch (s : State) : (nextByte s).latch = s.latch := rfl
@[simp] theorem nextByte_ctrl (s : State) : (nextByte s).ctrl = s.ctrl := rfl
@[simp] theorem nextByte_xfer (s : State) : (nextByte s).xfer = { s.xfer with byteIndex := s.xfer.byteIndex + 1 } := rfl
@[simp] theorem nextByte_pos (s : State) : (nextByte s).pos = s.pos := rfl
@[simp] theorem nextByte_sched (s : State) : (nextByte s).sched = s.sched := rfl
@[simp] theorem nextByte_disc (s : State) : (nextByte s).disc = s.disc := rfl
@[simp] theorem nextByte_backing (s : State) : (nextByte s).backing = s.backing := rfl
@[simp] theorem nextByte_firstResetDone (s : State) : (nextByte s).firstResetDone = s.firstResetDone := rfl
@[simp] theorem nextByte_misuse (s : State) : (nextByte s).misuse = s.misuse := rfl
@[simp] theorem nextByte_cfg (s : State) : (nextByte s).cfg = s.cfg := rfl
@[simp] theorem nextByte_now (s : State) : (nextByte s).now = s.now := rfl
@[simp] theorem nextByte_host (s : State) : (nextByte s).host = s.host := rfl
@[simp] theorem nextByte_returned (s : State) : (nextByte s).returned = s.returned := rfl
@[simp] theorem nextByte_draws (s : State) : (nextByte s).draws = s.draws := rfl

/-! `nextIndex` (R422). -/

@[simp] theorem nextIndex_status (s : State) : (nextIndex s).status = s.status := rfl
@[simp] theorem nextIndex_result (s : State) : (nextIndex s).result = s.result := rfl
@[simp] theorem nextIndex_data (s : State) : (nextIndex s).data = s.data := rfl
@[simp] theorem nextIndex_latch (s : State) : (nextIndex s).latch = s.latch := rfl
@[simp] theorem nextIndex_ctrl (s : State) : (nextIndex s).ctrl = s.ctrl := rfl
@[simp] theorem nextIndex_xfer (s : State) : (nextIndex s).xfer = { s.xfer with curSector := some (workSector s + 1), byteIndex := 0, sectorsToGo := s.xfer.sectorsToGo - 1 } := rfl
@[simp] theorem nextIndex_pos (s : State) : (nextIndex s).pos = s.pos := rfl
@[simp] theorem nextIndex_sched (s : State) : (nextIndex s).sched = s.sched := rfl
@[simp] theorem nextIndex_disc (s : State) : (nextIndex s).disc = s.disc := rfl
@[simp] theorem nextIndex_backing (s : State) : (nextIndex s).backing = s.backing := rfl
@[simp] theorem nextIndex_firstResetDone (s : State) : (nextIndex s).firstResetDone = s.firstResetDone := rfl
@[simp] theorem nextIndex_misuse (s : State) : (nextIndex s).misuse = s.misuse := rfl
@[simp] theorem nextIndex_cfg (s : State) : (nextIndex s).cfg = s.cfg := rfl
@[simp] theorem nextIndex_now (s : State) : (nextIndex s).now = s.now := rfl
@[simp] theorem nextIndex_host (s : State) : (nextIndex s).host = s.host := rfl
@[simp] theorem nextIndex_returned (s : State) : (nextIndex s).returned = s.returned := rfl
@[simp] theorem nextIndex_draws (s : State) : (nextIndex s).draws = s.draws := rfl

/-! `startReadId` (R450). -/

@[simp] theorem startReadId_status (t n : Byte) (s : State) : (startReadId t n s).status = s.status := rfl
@[simp] theorem startReadId_result (t n : Byte) (s : State) : (startReadId t n s).result = s.result := rfl
@[simp] theorem startReadId_data (t n : Byte) (s : State) : (startReadId t n s).data = s.data := rfl
@[simp] theorem startReadId_latch (t n : Byte) (s : State) : (startReadId t n s).latch = s.latch := rfl
@[simp] theorem startReadId_ctrl (t n : Byte) (s : State) : (startReadId t n s).ctrl = s.ctrl := rfl
@[simp] theorem startReadId_xfer (t n : Byte) (s : State) : (startReadId t n s).xfer = { s.xfer with trackAddr := t, sectorsToGo := (idFieldCount n : Int), byteIndex := 0 } := rfl
@[simp] theorem startReadId_pos (t n : Byte) (s : State) : (startReadId t n s).pos = s.pos := rfl
@[simp] theorem startReadId_sched (t n : Byte) (s : State) : (startReadId t n s).sched = s.sched := rfl
@[simp] theorem startReadId_disc (t n : Byte) (s : State) : (startReadId t n s).disc = s.disc := rfl
@[simp] theorem startReadId_backing (t n : Byte) (s : State) : (startReadId t n s).backing = s.backing := rfl
@[simp] theorem startReadId_firstResetDone (t n : Byte) (s : State) : (startReadId t n s).firstResetDone = s.firstResetDone := rfl
@[simp] theorem startReadId_misuse (t n : Byte) (s : State) : (startReadId t n s).misuse = s.misuse := rfl
@[simp] theorem startReadId_cfg (t n : Byte) (s : State) : (startReadId t n s).cfg = s.cfg := rfl
@[simp] theorem startReadId_now (t n : Byte) (s : State) : (startReadId t n s).now = s.now := rfl
@[simp] theorem startReadId_host (t n : Byte) (s : State) : (startReadId t n s).host = s.host := rfl
@[simp] theorem startReadId_returned (t n : Byte) (s : State) : (startReadId t n s).returned = s.returned := rfl
@[simp] theorem startReadId_draws (t n : Byte) (s : State) : (startReadId t n s).draws = s.draws := rfl

/-! `passIdField` (R452). -/

@[simp] theorem passIdField_status (q n : Nat) (s : State) : (passIdField q n s).status = s.status := rfl
@[simp] theorem passIdField_result (q n : Nat) (s : State) : (passIdField q n s).result = s.result := rfl
@[simp] theorem passIdField_data (q n : Nat) (s : State) : (passIdField q n s).data = s.data := rfl
@[simp] theorem passIdField_latch (q n : Nat) (s : State) : (passIdField q n s).latch = s.latch := rfl
@[simp] theorem passIdField_ctrl (q n : Nat) (s : State) : (passIdField q n s).ctrl = s.ctrl := rfl
@[simp] theorem passIdField_xfer (q n : Nat) (s : State) : (passIdField q n s).xfer = { s.xfer with byteIndex := 0, sectorsToGo := s.xfer.sectorsToGo - 1 } := rfl
@[simp] theorem passIdField_pos (q n : Nat) (s : State) : (passIdField q n s).pos = { s.pos with positionInTrack := nextPosition s q n } := rfl
@[simp] theorem passIdField_sched (q n : Nat) (s : State) : (passIdField q n s).sched = s.sched := rfl
@[simp] theorem passIdField_disc (q n : Nat) (s : State) : (passIdField q n s).disc = s.disc := rfl
@[simp] theorem passIdField_backing (q n : Nat) (s : State) : (passIdField q n s).backing = s.backing := rfl
@[simp] theorem passIdField_firstResetDone (q n : Nat) (s : State) : (passIdField q n s).firstResetDone = s.firstResetDone := rfl
@[simp] theorem passIdField_misuse (q n : Nat) (s : State) : (passIdField q n s).misuse = s.misuse := rfl
@[simp] theorem passIdField_cfg (q n : Nat) (s : State) : (passIdField q n s).cfg = s.cfg := rfl
@[simp] theorem passIdField_now (q n : Nat) (s : State) : (passIdField q n s).now = s.now := rfl
@[simp] theorem passIdField_host (q n : Nat) (s : State) : (passIdField q n s).host = s.host := rfl
@[simp] theorem passIdField_returned (q n : Nat) (s : State) : (passIdField q n s).returned = s.returned := rfl
@[simp] theorem passIdField_draws (q n : Nat) (s : State) : (passIdField q n s).draws = s.draws := rfl

/-! `seekTo` (R480). -/

@[simp] theorem seekTo_status (d : Fin 2) (t : Byte) (s : State) : (seekTo d t s).status = s.status := rfl
@[simp] theorem seekTo_result (d : Fin 2) (t : Byte) (s : State) : (seekTo d t s).result = s.result := rfl
@[simp] theorem seekTo_data (d : Fin 2) (t : Byte) (s : State) : (seekTo d t s).data = s.data := rfl
@[simp] theorem seekTo_latch (d : Fin 2) (t : Byte) (s : State) : (seekTo d t s).latch = s.latch := rfl
@[simp] theorem seekTo_ctrl (d : Fin 2) (t : Byte) (s : State) : (seekTo d t s).ctrl = { s.ctrl with currentTrack := s.ctrl.currentTrack.set d t } := rfl
@[simp] theorem seekTo_xfer (d : Fin 2) (t : Byte) (s : State) : (seekTo d t s).xfer = s.xfer := rfl
@[simp] theorem seekTo_pos (d : Fin 2) (t : Byte) (s : State) : (seekTo d t s).pos = { s.pos with physicalTrack := clampTrack t, usingSpecial := false, positionInTrack := 0, drdsc := 0 } := rfl
@[simp] theorem seekTo_sched (d : Fin 2) (t : Byte) (s : State) : (seekTo d t s).sched = s.sched := rfl
@[simp] theorem seekTo_disc (d : Fin 2) (t : Byte) (s : State) : (seekTo d t s).disc = s.disc := rfl
@[simp] theorem seekTo_backing (d : Fin 2) (t : Byte) (s : State) : (seekTo d t s).backing = s.backing := rfl
@[simp] theorem seekTo_firstResetDone (d : Fin 2) (t : Byte) (s : State) : (seekTo d t s).firstResetDone = s.firstResetDone := rfl
@[simp] theorem seekTo_misuse (d : Fin 2) (t : Byte) (s : State) : (seekTo d t s).misuse = s.misuse := rfl
@[simp] theorem seekTo_cfg (d : Fin 2) (t : Byte) (s : State) : (seekTo d t s).cfg = s.cfg := rfl
@[simp] theorem seekTo_now (d : Fin 2) (t : Byte) (s : State) : (seekTo d t s).now = s.now := rfl
@[simp] theorem seekTo_host (d : Fin 2) (t : Byte) (s : State) : (seekTo d t s).host = s.host := rfl
@[simp] theorem seekTo_returned (d : Fin 2) (t : Byte) (s : State) : (seekTo d t s).returned = s.returned := rfl
@[simp] theorem seekTo_draws (d : Fin 2) (t : Byte) (s : State) : (seekTo d t s).draws = s.draws := rfl

/-! `requestByte` (R402). -/

@[simp] theorem requestByte_status (n : Nat) (s : State) : (requestByte n s).status = statusByte := rfl
@[simp] theorem requestByte_result (n : Nat) (s : State) : (requestByte n s).result = s.result := rfl
@[simp] theorem requestByte_data (n : Nat) (s : State) : (requestByte n s).data = s.data := rfl
@[simp] theorem requestByte_latch (n : Nat) (s : State) : (requestByte n s).latch = s.latch := rfl
@[simp] theorem requestByte_ctrl (n : Nat) (s : State) : (requestByte n s).ctrl = s.ctrl := rfl
@[simp] theorem requestByte_xfer (n : Nat) (s : State) : (requestByte n s).xfer = s.xfer := rfl
@[simp] theorem requestByte_pos (n : Nat) (s : State) : (requestByte n s).pos = s.pos := rfl
@[simp] theorem requestByte_sched (n : Nat) (s : State) : (requestByte n s).sched = { s.sched with trigger := some (s.now + n), unloadPending := false } := rfl
@[simp] theorem requestByte_disc (n : Nat) (s : State) : (requestByte n s).disc = s.disc := rfl
@[simp] theorem requestByte_backing (n : Nat) (s : State) : (requestByte n s).backing = s.backing := rfl
@[simp] theorem requestByte_firstResetDone (n : Nat) (s : State) : (requestByte n s).firstResetDone = s.firstResetDone := rfl
@[simp] theorem requestByte_misuse (n : Nat) (s : State) : (requestByte n s).misuse = s.misuse := rfl
@[simp] theorem requestByte_cfg (n : Nat) (s : State) : (requestByte n s).cfg = s.cfg := rfl
@[simp] theorem requestByte_now (n : Nat) (s : State) : (requestByte n s).now = s.now := rfl
@[simp] theorem requestByte_host (n : Nat) (s : State) : (requestByte n s).host = s.host := rfl
@[simp] theorem requestByte_returned (n : Nat) (s : State) : (requestByte n s).returned = s.returned := rfl
@[simp] theorem requestByte_draws (n : Nat) (s : State) : (requestByte n s).draws = s.draws := rfl

/-! `deliverByte` (R354). -/

@[simp] theorem deliverByte_status (s : State) : (deliverByte s).status = statusByte := rfl
@[simp] theorem deliverByte_result (s : State) : (deliverByte s).result = (currentResult s).1 := rfl
@[simp] theorem deliverByte_data (s : State) : (deliverByte s).data = deliveredByte s := rfl
@[simp] theorem deliverByte_latch (s : State) : (deliverByte s).latch = s.latch := rfl
@[simp] theorem deliverByte_ctrl (s : State) : (deliverByte s).ctrl = s.ctrl := rfl
@[simp] theorem deliverByte_xfer (s : State) : (deliverByte s).xfer = { s.xfer with byteIndex := s.xfer.byteIndex + 1 } := rfl
@[simp] theorem deliverByte_pos (s : State) : (deliverByte s).pos = s.pos := rfl
@[simp] theorem deliverByte_sched (s : State) : (deliverByte s).sched = s.sched := rfl
@[simp] theorem deliverByte_disc (s : State) : (deliverByte s).disc = s.disc := rfl
@[simp] theorem deliverByte_backing (s : State) : (deliverByte s).backing = s.backing := rfl
@[simp] theorem deliverByte_firstResetDone (s : State) : (deliverByte s).firstResetDone = s.firstResetDone := rfl
@[simp] theorem deliverByte_misuse (s : State) : (deliverByte s).misuse = s.misuse := rfl
@[simp] theorem deliverByte_cfg (s : State) : (deliverByte s).cfg = s.cfg := rfl
@[simp] theorem deliverByte_now (s : State) : (deliverByte s).now = s.now := rfl
@[simp] theorem deliverByte_host (s : State) : (deliverByte s).host = s.host := rfl
@[simp] theorem deliverByte_returned (s : State) : (deliverByte s).returned = s.returned := rfl
@[simp] theorem deliverByte_draws (s : State) : (deliverByte s).draws = s.draws := rfl

/-! `deliverIdByte` (R452). -/

@[simp] theorem deliverIdByte_status (s : State) : (deliverIdByte s).status = statusByte := rfl
@[simp] theorem deliverIdByte_result (s : State) : (deliverIdByte s).result = s.result := rfl
@[simp] theorem deliverIdByte_data (s : State) : (deliverIdByte s).data = ((readIdSector s).id.byte? s.xfer.byteIndex).getD (Config.lostByte s.draws) := rfl
@[simp] theorem deliverIdByte_latch (s : State) : (deliverIdByte s).latch = s.latch := rfl
@[simp] theorem deliverIdByte_ctrl (s : State) : (deliverIdByte s).ctrl = s.ctrl := rfl
@[simp] theorem deliverIdByte_xfer (s : State) : (deliverIdByte s).xfer = { s.xfer with byteIndex := s.xfer.byteIndex + 1 } := rfl
@[simp] theorem deliverIdByte_pos (s : State) : (deliverIdByte s).pos = s.pos := rfl
@[simp] theorem deliverIdByte_sched (s : State) : (deliverIdByte s).sched = s.sched := rfl
@[simp] theorem deliverIdByte_disc (s : State) : (deliverIdByte s).disc = s.disc := rfl
@[simp] theorem deliverIdByte_backing (s : State) : (deliverIdByte s).backing = s.backing := rfl
@[simp] theorem deliverIdByte_firstResetDone (s : State) : (deliverIdByte s).firstResetDone = s.firstResetDone := rfl
@[simp] theorem deliverIdByte_misuse (s : State) : (deliverIdByte s).misuse = s.misuse := rfl
@[simp] theorem deliverIdByte_cfg (s : State) : (deliverIdByte s).cfg = s.cfg := rfl
@[simp] theorem deliverIdByte_now (s : State) : (deliverIdByte s).now = s.now := rfl
@[simp] theorem deliverIdByte_host (s : State) : (deliverIdByte s).host = s.host := rfl
@[simp] theorem deliverIdByte_returned (s : State) : (deliverIdByte s).returned = s.returned := rfl
@[simp] theorem deliverIdByte_draws (s : State) : (deliverIdByte s).draws = s.draws := rfl

/-! `storeParam` (R264). -/

@[simp] theorem storeParam_status (v : Byte) (s : State) : (storeParam v s).status = statusParam s.status := rfl
@[simp] theorem storeParam_result (v : Byte) (s : State) : (storeParam v s).result = s.result := rfl
@[simp] theorem storeParam_data (v : Byte) (s : State) : (storeParam v s).data = s.data := rfl
@[simp] theorem storeParam_latch (v : Byte) (s : State) : (storeParam v s).latch = { s.latch with params := s.latch.params.setIfInBounds s.latch.paramReceived v, paramReceived := s.latch.paramReceived + 1 } := rfl
@[simp] theorem storeParam_ctrl (v : Byte) (s : State) : (storeParam v s).ctrl = s.ctrl := rfl
@[simp] theorem storeParam_xfer (v : Byte) (s : State) : (storeParam v s).xfer = s.xfer := rfl
@[simp] theorem storeParam_pos (v : Byte) (s : State) : (storeParam v s).pos = s.pos := rfl
@[simp] theorem storeParam_sched (v : Byte) (s : State) : (storeParam v s).sched = s.sched := rfl
@[simp] theorem storeParam_disc (v : Byte) (s : State) : (storeParam v s).disc = s.disc := rfl
@[simp] theorem storeParam_backing (v : Byte) (s : State) : (storeParam v s).backing = s.backing := rfl
@[simp] theorem storeParam_firstResetDone (v : Byte) (s : State) : (storeParam v s).firstResetDone = s.firstResetDone := rfl
@[simp] theorem storeParam_misuse (v : Byte) (s : State) : (storeParam v s).misuse = s.misuse := rfl
@[simp] theorem storeParam_cfg (v : Byte) (s : State) : (storeParam v s).cfg = s.cfg := rfl
@[simp] theorem storeParam_now (v : Byte) (s : State) : (storeParam v s).now = s.now := rfl
@[simp] theorem storeParam_host (v : Byte) (s : State) : (storeParam v s).host = s.host := rfl
@[simp] theorem storeParam_returned (v : Byte) (s : State) : (storeParam v s).returned = s.returned := rfl
@[simp] theorem storeParam_draws (v : Byte) (s : State) : (storeParam v s).draws = s.draws := rfl

/-! `enterTick` (R305 step 1). -/

@[simp] theorem enterTick_status (s : State) : (enterTick s).status = s.status := rfl
@[simp] theorem enterTick_result (s : State) : (enterTick s).result = s.result := rfl
@[simp] theorem enterTick_data (s : State) : (enterTick s).data = s.data := rfl
@[simp] theorem enterTick_latch (s : State) : (enterTick s).latch = s.latch := rfl
@[simp] theorem enterTick_ctrl (s : State) : (enterTick s).ctrl = s.ctrl := rfl
@[simp] theorem enterTick_xfer (s : State) : (enterTick s).xfer = s.xfer := rfl
@[simp] theorem enterTick_pos (s : State) : (enterTick s).pos = s.pos := rfl
@[simp] theorem enterTick_sched (s : State) : (enterTick s).sched = { s.sched with trigger := none } := rfl
@[simp] theorem enterTick_disc (s : State) : (enterTick s).disc = s.disc := rfl
@[simp] theorem enterTick_backing (s : State) : (enterTick s).backing = s.backing := rfl
@[simp] theorem enterTick_firstResetDone (s : State) : (enterTick s).firstResetDone = s.firstResetDone := rfl
@[simp] theorem enterTick_misuse (s : State) : (enterTick s).misuse = (s.misuse || tickIsEarly s) := rfl
@[simp] theorem enterTick_cfg (s : State) : (enterTick s).cfg = s.cfg := rfl
@[simp] theorem enterTick_now (s : State) : (enterTick s).now = s.now := rfl
@[simp] theorem enterTick_host (s : State) : (enterTick s).host = s.host := rfl
@[simp] theorem enterTick_returned (s : State) : (enterTick s).returned = s.returned := rfl
@[simp] theorem enterTick_draws (s : State) : (enterTick s).draws = s.draws + 1 := rfl

end Sys2Proof.Machine
end

