-- ==== Sys2Proof/Laws/Disc.lean ====
section
/-! SUPPORT. The disc model: reading a track after a track is replaced, reading a byte after a byte is stored or a
sector is filled, and that every store keeps the track invariant and the canonical form. -/

namespace Sys2Proof.Machine

/-! Replacing a track (R100). -/

/-- A track address is its three parts. -/
theorem TrackAddr.ext_parts (a b : TrackAddr) (hd : a.drive = b.drive) (hh : a.head = b.head) (ht : a.track = b.track) :
    a = b := by
  cases a; cases b; simp_all

/-- A track read after a track is replaced: the new one at its address, every other as before. -/
theorem trackAt_setTrack (s : State) (a b : TrackAddr) (tr : Track) :
    trackAt (setTrack s a tr) b = if b = a then tr else trackAt s b := by
  unfold trackAt setTrack Disc.setTrack
  by_cases hd : b.drive = a.drive
  · by_cases hh : b.head = a.head
    · by_cases ht : b.track = a.track
      · rw [if_pos (TrackAddr.ext_parts b a hd hh ht)]
        simp [hd, hh, ht]
      · have hne : b ≠ a := fun h => ht (h ▸ rfl)
        have ht' : (a.track : Nat) ≠ b.track := fun h => ht (Fin.ext h.symm)
        rw [if_neg hne]
        simp [hd, hh, Vector.getElem_set_ne _ _ ht']
    · have hne : b ≠ a := fun h => hh (h ▸ rfl)
      have hh' : (a.head : Nat) ≠ b.head := fun h => hh (Fin.ext h.symm)
      rw [if_neg hne]
      simp [hd, Vector.getElem_set_ne _ _ hh']
  · have hne : b ≠ a := fun h => hd (h ▸ rfl)
    have hd' : (a.drive : Nat) ≠ b.drive := fun h => hd (Fin.ext h.symm)
    rw [if_neg hne]
    simp [Vector.getElem_set_ne _ _ hd']

@[simp] theorem trackAt_setTrack_self (s : State) (a : TrackAddr) (tr : Track) :
    trackAt (setTrack s a tr) a = tr := by
  rw [trackAt_setTrack, if_pos rfl]

/-- A track depends on the disc model alone. -/
theorem trackAt_congr (s u : State) (a : TrackAddr) (h : u.disc = s.disc) : trackAt u a = trackAt s a := by
  unfold trackAt; rw [h]

/-- A byte read depends on the disc model alone. -/
theorem discRead_congr (s u : State) (b : ByteAddr) (h : u.disc = s.disc) : discRead u b = discRead s b := by
  unfold discRead; rw [trackAt_congr s u b.track h]

/-- Replacing a track leaves what the rest of a disc says of itself (R116). -/
theorem setTrack_disc_attributes (s : State) (a : TrackAddr) (tr : Track) (d : Fin 2) :
    (setTrack s a tr).disc[d].path = s.disc[d].path ∧ (setTrack s a tr).disc[d].kind = s.disc[d].kind ∧
      (setTrack s a tr).disc[d].writable = s.disc[d].writable ∧
      (setTrack s a tr).disc[d].headsCode = s.disc[d].headsCode ∧
      (setTrack s a tr).disc[d].totalTracks = s.disc[d].totalTracks := by
  unfold setTrack Disc.setTrack
  by_cases hd : d = a.drive
  · subst hd; simp
  · have hd' : (a.drive : Nat) ≠ d := fun h => hd (Fin.ext h.symm)
    simp [Vector.getElem_set_ne _ _ hd']

/-! Replacing a sector. -/

/-- A sector that exists lies below `n_sectors` and in the list (R101). -/
theorem Track.sectorAt_some (tr : Track) (i : Nat) (x : Sector) :
    tr.sectorAt i = some x ↔ i < tr.nSectors ∧ tr.sectors[i]? = some x := by
  unfold Track.sectorAt
  split <;> simp_all

/-- Under the track invariant every index below `n_sectors` has a sector (R115). -/
theorem Track.Kept.exists_sectorAt (tr : Track) (h : tr.Kept) (i : Nat) (hi : i < tr.nSectors) :
    ∃ x, tr.sectorAt i = some x := by
  have hl : i < tr.sectors.length := by rw [h.1]; exact hi
  exact ⟨tr.sectors[i], (tr.sectorAt_some i _).2 ⟨hi, List.getElem?_eq_getElem hl⟩⟩

/-- What the track invariant says of a sector that exists. -/
theorem Track.Kept.sector (tr : Track) (h : tr.Kept) (i : Nat) (x : Sector) (hx : tr.sectorAt i = some x) :
    Sector.Kept i x ∧ (tr.readable = true → 128 ≤ x.realSize) :=
  h.2 i x ((tr.sectorAt_some i x).1 hx).2

/-- A sector read after a sector is replaced. -/
theorem Track.sectorAt_setSector (tr : Track) (i j : Nat) (x y : Sector) (hx : tr.sectorAt i = some x) :
    (tr.setSector i y).sectorAt j = if j = i then some y else tr.sectorAt j := by
  obtain ⟨hi, hs⟩ := (tr.sectorAt_some i x).1 hx
  have hl : i < tr.sectors.length := (List.getElem?_eq_some_iff.1 hs).1
  unfold Track.sectorAt Track.setSector
  by_cases hj : j = i
  · subst hj; simp [hi, hl]
  · have hj' : i ≠ j := fun h => hj h.symm
    simp [hj, List.getElem?_set_ne hj']

/-- Replacing a sector by one with another buffer of the same size keeps the track invariant. -/
theorem Track.Kept.setSector (tr : Track) (i : Nat) (x : Sector) (m : Memory) (h : tr.Kept)
    (hx : tr.sectorAt i = some x) (hw : Memory.wf m = true) (hb : Memory.below m x.realSize = true) :
    (tr.setSector i { x with data := m }).Kept := by
  obtain ⟨_, hs⟩ := (tr.sectorAt_some i x).1 hx
  have hl : i < tr.sectors.length := (List.getElem?_eq_some_iff.1 hs).1
  have hk := h.2 i x hs
  refine ⟨by simpa [Track.setSector] using h.1, fun j y hj => ?_⟩
  by_cases hij : j = i
  · subst hij
    rw [Track.setSector, List.getElem?_set_self hl] at hj
    obtain rfl := Option.some.inj hj
    exact ⟨⟨hk.1.1, hw, hb, hk.1.2.2.2⟩, hk.2⟩
  · have hij' : i ≠ j := fun e => hij e.symm
    rw [Track.setSector, List.getElem?_set_ne hij'] at hj
    exact h.2 j y hj

/-- Replacing a sector's buffer leaves the track's headers (R404). -/
theorem Track.headers_setSector (tr : Track) (i : Nat) (x : Sector) (m : Memory) (hx : tr.sectorAt i = some x) :
    (tr.setSector i { x with data := m }).headers = tr.headers := by
  obtain ⟨_, hs⟩ := (tr.sectorAt_some i x).1 hx
  unfold Track.headers Track.setSector
  congr 1
  apply List.ext_getElem?
  intro j
  by_cases hj : j = i
  · subst hj
    rw [List.getElem?_map, List.getElem?_map, hs, List.getElem?_set_self (List.getElem?_eq_some_iff.1 hs).1]
    rfl
  · have hj' : i ≠ j := fun e => hj e.symm
    simp [List.getElem?_set_ne hj']

/-! Storing a byte (R101, R402). -/

/-- Everything a store to a byte that exists does to the tracks. -/
theorem trackAt_discWrite (s : State) (a : ByteAddr) (v : Byte) (x : Sector) (b : TrackAddr)
    (hx : (trackAt s a.track).sectorAt a.sector = some x) (ho : a.offset < x.realSize) :
    trackAt (discWrite s a v) b =
      if b = a.track then
        (trackAt s a.track).setSector a.sector { x with data := Memory.write x.data a.offset v }
      else trackAt s b := by
  unfold discWrite
  rw [hx]
  simp only [ho, if_true]
  exact trackAt_setTrack s a.track b _

/-- A store to a byte that does not exist does nothing. -/
theorem discWrite_missing (s : State) (a : ByteAddr) (v : Byte)
    (h : ∀ x, (trackAt s a.track).sectorAt a.sector = some x → x.realSize ≤ a.offset) : discWrite s a v = s := by
  unfold discWrite
  split
  · rename_i x hx
    rw [if_neg (Nat.not_lt.2 (h x hx))]
  · rfl

/-- Every store leaves a disc's attributes. -/
theorem discWrite_disc_attributes (s : State) (a : ByteAddr) (v : Byte) (d : Fin 2) :
    (discWrite s a v).disc[d].path = s.disc[d].path ∧ (discWrite s a v).disc[d].kind = s.disc[d].kind ∧
      (discWrite s a v).disc[d].writable = s.disc[d].writable ∧
      (discWrite s a v).disc[d].headsCode = s.disc[d].headsCode ∧
      (discWrite s a v).disc[d].totalTracks = s.disc[d].totalTracks := by
  unfold discWrite
  split
  · split
    · exact setTrack_disc_attributes _ _ _ _
    · simp
  · simp

/-- A store touches the disc model alone. -/
theorem discWrite_eq (s : State) (a : ByteAddr) (v : Byte) :
    discWrite s a v = { s with disc := (discWrite s a v).disc } := by
  unfold discWrite
  split
  · split <;> rfl
  · rfl

/-- A store's effect on the disc model depends on the disc model alone. -/
theorem discWrite_disc_congr (s u : State) (a : ByteAddr) (v : Byte) (h : u.disc = s.disc) :
    (discWrite u a v).disc = (discWrite s a v).disc := by
  have ht := trackAt_congr s u a.track h
  unfold discWrite
  rw [ht]
  split
  · split
    · unfold setTrack; simp only [h]
    · exact h
  · exact h

/-- Reading a byte after a byte was stored, on a well-kept disc model. -/
theorem discRead_discWrite (s : State) (a b : ByteAddr) (v : Byte) (x : Sector) (hd : DiscKept s)
    (hx : (trackAt s a.track).sectorAt a.sector = some x) (ho : a.offset < x.realSize) :
    discRead (discWrite s a v) b = if b = a then some v else discRead s b := by
  have hw : Memory.wf x.data = true := ((hd a.track).sector _ _ _ hx).1.2.1
  unfold discRead
  rw [trackAt_discWrite s a v x b.track hx ho]
  by_cases ht : b.track = a.track
  · rw [if_pos ht, Track.sectorAt_setSector _ _ _ x _ hx]
    by_cases hs : b.sector = a.sector
    · rw [if_pos hs, ht, hs, hx]
      by_cases hk : b.offset = a.offset
      · have : b = a := by cases a; cases b; simp_all
        simp [this, ho, Memory.read_write _ _ _ _ hw]
      · have : b ≠ a := fun e => hk (e ▸ rfl)
        simp [this, Memory.read_write _ _ _ _ hw, hk]
    · have : b ≠ a := fun e => hs (e ▸ rfl)
      simp [hs, this, ht]
  · have : b ≠ a := fun e => ht (e ▸ rfl)
    simp [ht, this]

/-- Every store keeps the disc model well kept. -/
theorem discWrite_kept (s : State) (a : ByteAddr) (v : Byte) (hd : DiscKept s) : DiscKept (discWrite s a v) := by
  intro b
  unfold discWrite
  split
  · rename_i x hx
    split
    · rename_i ho
      rw [trackAt_setTrack]
      split
      · have hk := ((hd a.track).sector _ _ _ hx).1
        exact (hd a.track).setSector _ _ x _ hx (Memory.write_wf _ _ _ hk.2.1)
          (Memory.write_below _ _ _ _ hk.2.2.1 ho)
      · exact hd b
    · exact hd b
  · exact hd b

/-- Every store leaves every track's headers. -/
theorem discWrite_headers (s : State) (a : ByteAddr) (v : Byte) (b : TrackAddr) :
    (trackAt (discWrite s a v) b).headers = (trackAt s b).headers := by
  unfold discWrite
  split
  · rename_i x hx
    split
    · rw [trackAt_setTrack]
      split
      · rename_i hb
        rw [hb, Track.headers_setSector _ _ x _ hx]
      · rfl
    · rfl
  · rfl

/-! Filling a sector (R422). -/

/-- Everything filling a sector that exists does to the tracks. -/
theorem trackAt_discFill (s : State) (t : TrackAddr) (i : Nat) (v : Byte) (x : Sector) (b : TrackAddr)
    (hx : (trackAt s t).sectorAt i = some x) :
    trackAt (discFill s t i v) b =
      if b = t then
        (trackAt s t).setSector i { x with data := Memory.ofBytes 0 (List.replicate x.realSize v) }
      else trackAt s b := by
  unfold discFill
  rw [hx]
  exact trackAt_setTrack s t b _

/-- Filling a sector leaves a disc's attributes. -/
theorem discFill_disc_attributes (s : State) (t : TrackAddr) (i : Nat) (v : Byte) (d : Fin 2) :
    (discFill s t i v).disc[d].path = s.disc[d].path ∧ (discFill s t i v).disc[d].kind = s.disc[d].kind ∧
      (discFill s t i v).disc[d].writable = s.disc[d].writable ∧
      (discFill s t i v).disc[d].headsCode = s.disc[d].headsCode ∧
      (discFill s t i v).disc[d].totalTracks = s.disc[d].totalTracks := by
  unfold discFill
  split
  · exact setTrack_disc_attributes _ _ _ _
  · simp

/-- Filling a sector touches the disc model alone. -/
theorem discFill_eq (s : State) (t : TrackAddr) (i : Nat) (v : Byte) :
    discFill s t i v = { s with disc := (discFill s t i v).disc } := by
  unfold discFill
  split <;> rfl

/-- A fill's effect on the disc model depends on the disc model alone. -/
theorem discFill_disc_congr (s u : State) (t : TrackAddr) (i : Nat) (v : Byte) (h : u.disc = s.disc) :
    (discFill u t i v).disc = (discFill s t i v).disc := by
  have ht := trackAt_congr s u t h
  unfold discFill
  rw [ht]
  split
  · unfold setTrack; simp only [h]
  · exact h

/-- Reading a byte after a sector was filled. -/
theorem discRead_discFill (s : State) (t : TrackAddr) (i : Nat) (v : Byte) (x : Sector) (b : ByteAddr)
    (hx : (trackAt s t).sectorAt i = some x) :
    discRead (discFill s t i v) b =
      if b.track = t ∧ b.sector = i then (if b.offset < x.realSize then some v else none) else discRead s b := by
  unfold discRead
  rw [trackAt_discFill s t i v x b.track hx]
  by_cases ht : b.track = t
  · rw [if_pos ht, Track.sectorAt_setSector _ _ _ x _ hx]
    by_cases hs : b.sector = i
    · simp only [hs, ht, if_true, and_self]
      split
      · rename_i ho
        rw [Memory.read_ofBytes 0 _ _ (Nat.zero_le _)]
        simp [ho]
      · rfl
    · simp [hs, ht]
  · simp [ht]

/-- Filling a sector keeps the disc model well kept. -/
theorem discFill_kept (s : State) (t : TrackAddr) (i : Nat) (v : Byte) (hd : DiscKept s) :
    DiscKept (discFill s t i v) := by
  intro b
  unfold discFill
  split
  · rename_i x hx
    rw [trackAt_setTrack]
    split
    · exact (hd t).setSector _ _ x _ hx (Memory.ofBytes_wf _ _) (Memory.ofBytes_below _ _ (by simp))
    · exact hd b
  · exact hd b

/-- Filling a sector leaves every track's headers. -/
theorem discFill_headers (s : State) (t : TrackAddr) (i : Nat) (v : Byte) (b : TrackAddr) :
    (trackAt (discFill s t i v) b).headers = (trackAt s b).headers := by
  unfold discFill
  split
  · rename_i x hx
    rw [trackAt_setTrack]
    split
    · rename_i hb
      rw [hb, Track.headers_setSector _ _ x _ hx]
    · rfl
  · rfl

/-! What leaves a disc's attributes (R116, R630). -/

/-- The same disc model has the same attributes. -/
theorem attributesKept_of_disc (s u : State) (h : u.disc = s.disc) : AttributesKept s u := by
  intro d; rw [h]; exact ⟨rfl, rfl, rfl, rfl, rfl⟩

/-- Attributes kept twice are kept. -/
theorem AttributesKept.trans {s t u : State} (h1 : AttributesKept s t) (h2 : AttributesKept t u) :
    AttributesKept s u := fun d =>
  ⟨(h2 d).1.trans (h1 d).1, (h2 d).2.1.trans (h1 d).2.1, (h2 d).2.2.1.trans (h1 d).2.2.1,
    (h2 d).2.2.2.1.trans (h1 d).2.2.2.1, (h2 d).2.2.2.2.trans (h1 d).2.2.2.2⟩

theorem setTrack_attributesKept (s : State) (a : TrackAddr) (tr : Track) : AttributesKept s (setTrack s a tr) :=
  setTrack_disc_attributes s a tr

theorem discWrite_attributesKept (s : State) (a : ByteAddr) (v : Byte) : AttributesKept s (discWrite s a v) :=
  discWrite_disc_attributes s a v

theorem discFill_attributesKept (s : State) (t : TrackAddr) (i : Nat) (v : Byte) :
    AttributesKept s (discFill s t i v) := discFill_disc_attributes s t i v

/-! The matches of the two lookups. -/

/-- R120: a track matches when its first sector's ID carries the logical track. -/
theorem Track.answersTo_iff (tr : Track) (t : Byte) :
    tr.answersTo t = true ↔ ∃ x, tr.sectorAt 0 = some x ∧ x.id.track = t := by
  unfold Track.answersTo
  cases tr.sectorAt 0 <;> simp

/-- R120: a track does not match when its first sector's ID, if any, carries another logical track. -/
theorem Track.answersTo_eq_false (tr : Track) (t : Byte) :
    tr.answersTo t = false ↔ ∀ x, tr.sectorAt 0 = some x → x.id.track ≠ t := by
  unfold Track.answersTo
  cases tr.sectorAt 0 <;> simp

/-- R121: an index matches when the sector there carries the logical sector ID. -/
theorem Track.hasIdAt_iff (tr : Track) (x : Byte) (i : Nat) :
    tr.hasIdAt x i = true ↔ ∃ y, tr.sectorAt i = some y ∧ y.id.sector = x := by
  unfold Track.hasIdAt
  cases tr.sectorAt i <;> simp

/-- R121: an index does not match when the sector there, if any, carries another ID. -/
theorem Track.hasIdAt_eq_false (tr : Track) (x : Byte) (i : Nat) :
    tr.hasIdAt x i = false ↔ ∀ y, tr.sectorAt i = some y → y.id.sector ≠ x := by
  unfold Track.hasIdAt
  cases tr.sectorAt i <;> simp

/-! What the headers of a track settle: everything but its bytes. -/

@[simp] theorem Track.headers_nSectors (tr : Track) : tr.headers.nSectors = tr.nSectors := rfl
@[simp] theorem Track.headers_readable (tr : Track) : tr.headers.readable = tr.readable := rfl

/-- Tracks with the same headers have the same number of sectors. -/
theorem Track.nSectors_of_headers (tr tr' : Track) (h : tr'.headers = tr.headers) : tr'.nSectors = tr.nSectors := by
  rw [← tr'.headers_nSectors, h, tr.headers_nSectors]

/-- Tracks with the same headers are readable alike. -/
theorem Track.readable_of_headers (tr tr' : Track) (h : tr'.headers = tr.headers) : tr'.readable = tr.readable := by
  rw [← tr'.headers_readable, h, tr.headers_readable]

/-- Tracks with the same headers have sectors that differ in their bytes alone. -/
theorem Track.sectorAt_of_headers (tr tr' : Track) (h : tr'.headers = tr.headers) (i : Nat) :
    (tr'.sectorAt i).map (fun x => { x with data := [] }) = (tr.sectorAt i).map (fun x => { x with data := [] }) := by
  have hn := Track.nSectors_of_headers tr tr' h
  have hs := congrArg (fun t : Track => t.sectors[i]?) h
  simp only [Track.headers, List.getElem?_map] at hs
  unfold Track.sectorAt
  rw [hn]
  split
  · exact hs
  · rfl

/-- Tracks with the same headers resolve a sector ID alike (R121). -/
theorem findSector_of_headers (tr tr' : Track) (h : tr'.headers = tr.headers) (x : Byte) (p : Nat) :
    findSector tr' x p = findSector tr x p := by
  have hn := Track.nSectors_of_headers tr tr' h
  have hrec : ∀ i, (tr'.sectorAt i).map (fun y => y.record) = (tr.sectorAt i).map (fun y => y.record) := by
    intro i
    have := congrArg (Option.map (fun y : Sector => y.record)) (tr.sectorAt_of_headers tr' h i)
    simpa [Option.map_map, Function.comp_def] using this
  have hid : (fun i => tr'.hasIdAt x i) = (fun i => tr.hasIdAt x i) := by
    funext i
    have h2 := tr.sectorAt_of_headers tr' h i
    unfold Track.hasIdAt
    cases h3 : tr'.sectorAt i <;> cases h4 : tr.sectorAt i <;> simp_all
  unfold findSector
  rw [hn, hid]
  split <;> simp_all

end Sys2Proof.Machine
end

