-- ==== Sys2Proof/Laws/Encoding.lean ====
section
/-! SUPPORT. The fields of a command byte and the row each opcode selects, whatever the select bits are (R200, R210). -/

namespace Sys2Proof

/-! The row an opcode selects. -/

@[simp] theorem decodeCommand_write (ss : BitVec 2) : decodeCommand (commandByte ss 0x0B) = .write := by revert ss; decide
@[simp] theorem decodeCommand_read (ss : BitVec 2) : decodeCommand (commandByte ss 0x13) = .read := by revert ss; decide
@[simp] theorem decodeCommand_readDel128 (ss : BitVec 2) : decodeCommand (commandByte ss 0x16) = .readDel128 := by revert ss; decide
@[simp] theorem decodeCommand_readDel (ss : BitVec 2) : decodeCommand (commandByte ss 0x17) = .readDel := by revert ss; decide
@[simp] theorem decodeCommand_readId (ss : BitVec 2) : decodeCommand (commandByte ss 0x1B) = .readId := by revert ss; decide
@[simp] theorem decodeCommand_verify (ss : BitVec 2) : decodeCommand (commandByte ss 0x1F) = .verify := by revert ss; decide
@[simp] theorem decodeCommand_format (ss : BitVec 2) : decodeCommand (commandByte ss 0x23) = .format := by revert ss; decide
@[simp] theorem decodeCommand_seek (ss : BitVec 2) : decodeCommand (commandByte ss 0x29) = .seek := by revert ss; decide
@[simp] theorem decodeCommand_readStatus (ss : BitVec 2) : decodeCommand (commandByte ss 0x2C) = .readStatus := by revert ss; decide
@[simp] theorem decodeCommand_writeSpecial (ss : BitVec 2) : decodeCommand (commandByte ss 0x3A) = .writeSpecial := by revert ss; decide
@[simp] theorem decodeCommand_readSpecial (ss : BitVec 2) : decodeCommand (commandByte ss 0x3D) = .readSpecial := by revert ss; decide
@[simp] theorem decodeCommand_scan (ss : BitVec 2) : decodeCommand (commandByte ss 0x00) = .scan := by revert ss; decide
@[simp] theorem decodeCommand_scanDel (ss : BitVec 2) : decodeCommand (commandByte ss 0x04) = .scanDel := by revert ss; decide
@[simp] theorem decodeCommand_write128 (ss : BitVec 2) : decodeCommand (commandByte ss 0x0A) = .write128 := by revert ss; decide
@[simp] theorem decodeCommand_writeDel128 (ss : BitVec 2) : decodeCommand (commandByte ss 0x0E) = .writeDel128 := by revert ss; decide
@[simp] theorem decodeCommand_writeDel (ss : BitVec 2) : decodeCommand (commandByte ss 0x0F) = .writeDel := by revert ss; decide
@[simp] theorem decodeCommand_read128 (ss : BitVec 2) : decodeCommand (commandByte ss 0x12) = .read128 := by revert ss; decide
@[simp] theorem decodeCommand_verifyDel128 (ss : BitVec 2) : decodeCommand (commandByte ss 0x1E) = .verifyDel128 := by revert ss; decide
@[simp] theorem decodeCommand_specify : decodeCommand 0x35 = .specify := by decide

/-- The bytes of the fallback (R213, R214). -/
theorem decodeCommand_fallback (code : Byte) (h : isFallbackByte code = true) : decodeCommand code = .unknown := by
  revert code; decide

/-! The select bits of a command byte (R200, R201). -/

@[simp] theorem commandByte_bit6 (ss : BitVec 2) (op : BitVec 6) : (commandByte ss op)[6] = ss[0] := by
  revert ss op; decide

@[simp] theorem commandByte_bit7 (ss : BitVec 2) (op : BitVec 6) : (commandByte ss op)[7] = ss[1] := by
  revert ss op; decide

/-- The select bits of a command byte, in place. -/
theorem commandByte_select (ss : BitVec 2) (op : BitVec 6) : commandByte ss op &&& 0xC0 = ss ++ (0 : BitVec 6) := by
  revert ss op; decide

@[simp] theorem selectField_commandByte (ss : BitVec 2) (op : BitVec 6) : selectField (commandByte ss op) = ss := by
  revert ss op; decide

end Sys2Proof
end

