-- ==== Sys2Proof/Laws/Shell.lean ====
section
/-! SUPPORT. The loaders (R130 to R133): what a head made from a list of tracks holds, what a raw track holds, and that
every disc a loader makes is well kept; and the memory of the reset state. -/

namespace Sys2Proof.Machine

/-! Heads. -/

/-- Placing tracks from `k` up: what track `t` is afterwards. -/
theorem placeTracks_get (trs : List Track) : ∀ (v : Vector Track 80) (k t : Nat) (ht : t < 80),
    (placeTracks v k trs)[t] = if k ≤ t then (trs[t - k]?).getD v[t] else v[t] := by
  induction trs with
  | nil => intro v k t ht; simp [placeTracks]
  | cons tr trs ih =>
    intro v k t ht
    rw [placeTracks, ih, Vector.getElem_setIfInBounds ht]
    by_cases h1 : k + 1 ≤ t
    · rw [if_pos h1, if_pos (show k ≤ t by omega), if_neg (show ¬ k = t by omega)]
      have : t - k = (t - (k + 1)) + 1 := by omega
      rw [this]; simp
    · rw [if_neg h1]
      by_cases h2 : k = t
      · subst h2; simp
      · rw [if_neg h2, if_neg (by omega)]

/-- A head made from a list of tracks holds them from track 0 up, and empty tracks above. -/
theorem headOf_get (trs : List Track) (t : Fin 80) : (headOf trs)[t] = (trs[t.val]?).getD emptyTrack := by
  show (headOf trs)[t.val] = _
  unfold headOf
  rw [placeTracks_get]; simp

/-- The tracks of a raw image's head (R130, R131). -/
theorem rawHead_get (h : Nat) (bytes : List Byte) (base : Nat → Nat) (t : Fin 80) :
    (rawHead h bytes base)[t] = rawTrack t.val h bytes (base t.val) := by
  unfold rawHead
  rw [headOf_get]
  simp [t.isLt]

/-- The sectors of a raw track. -/
theorem rawTrack_sectorAt (t h : Nat) (bytes : List Byte) (base i : Nat) (hi : i < 10) :
    (rawTrack t h bytes base).sectorAt i = some (rawSector t h bytes base i) := by
  simp [Track.sectorAt, rawTrack, hi]

/-- The bytes of a raw sector: the image's, zeros past its end. -/
theorem rawSector_read (t h : Nat) (bytes : List Byte) (base i k : Nat) (hk : k < 256) :
    Memory.read (rawSector t h bytes base i).data k = bytes.getD (base + 256 * i + k) 0x00 := by
  simp only [rawSector]
  rw [Memory.read_ofBytes 0 _ _ (Nat.zero_le _)]
  simp [List.getD_eq_getElem?_getD, hk, List.getElem?_drop]

/-! Every loader's tracks are well kept. -/

/-- A track with no sectors is well kept. -/
theorem emptyTrack_kept : emptyTrack.Kept := ⟨rfl, fun i sec h => by simp [emptyTrack] at h⟩

/-- A head is well kept when the tracks it is made from are. -/
theorem headOf_kept (trs : List Track) (h : ∀ tr ∈ trs, tr.Kept) (t : Fin 80) : ((headOf trs)[t]).Kept := by
  rw [headOf_get]
  cases hh : trs[t.val]? with
  | none => exact emptyTrack_kept
  | some tr => exact h tr (List.mem_of_getElem? hh)

/-- A raw track is well kept. -/
theorem rawTrack_kept (t h : Nat) (bytes : List Byte) (base : Nat) : (rawTrack t h bytes base).Kept := by
  refine ⟨by simp [rawTrack], ?_⟩
  intro i sec hs
  simp only [rawTrack, List.getElem?_map] at hs
  by_cases hi : i < 10
  · rw [List.getElem?_range hi] at hs
    simp at hs; subst hs
    exact ⟨⟨rfl, Memory.ofBytes_wf _ _, Memory.ofBytes_below _ _ (by simp [rawSector]), by simp [rawSector]⟩,
      fun _ => by simp [rawSector]⟩
  · rw [List.getElem?_eq_none (by simpa using hi)] at hs; simp at hs

/-- The tracks of a disc are well kept. -/
def Disc.Kept (D : Disc) : Prop := ∀ (h : Fin 2) (t : Fin 80), (D.tracks[h][t]).Kept

/-- A disc of two well-kept heads is well kept. -/
theorem Disc.kept_of_heads (D : Disc) (a b : Vector Track 80) (hD : D.tracks = #v[a, b])
    (ha : ∀ t : Fin 80, (a[t]).Kept) (hb : ∀ t : Fin 80, (b[t]).Kept) : D.Kept := by
  intro h t
  rw [hD]
  match h with
  | 0 => exact ha t
  | 1 => exact hb t

/-- The disc of an empty drive is well kept. -/
theorem emptyDisc_kept : emptyDisc.Kept := by
  intro h t
  have : emptyDisc.tracks[h][t] = emptyTrack := by simp [emptyDisc]
  rw [this]; exact emptyTrack_kept

/-- A head of a raw image is well kept. -/
theorem rawHead_kept (h : Nat) (bytes : List Byte) (base : Nat → Nat) (t : Fin 80) :
    ((rawHead h bytes base)[t]).Kept := by
  rw [rawHead_get]; exact rawTrack_kept _ _ _ _

/-- What `LoadSSD` makes is well kept. -/
theorem ssdDisc_kept (bytes : List Byte) (path : String) (w : Bool) : (ssdDisc bytes path w).Kept := by
  unfold ssdDisc
  split
  · exact Disc.kept_of_heads _ _ _ rfl (rawHead_kept _ _ _) (rawHead_kept _ _ _)
  · exact Disc.kept_of_heads _ _ _ rfl (rawHead_kept _ _ _) (headOf_kept _ (by simp))

/-- What `LoadDSD` makes is well kept. -/
theorem dsdDisc_kept (bytes : List Byte) (path : String) (w : Bool) : (dsdDisc bytes path w).Kept :=
  Disc.kept_of_heads _ _ _ rfl (rawHead_kept _ _ _) (rawHead_kept _ _ _)

/-- R111: every size is 128 to 2048. -/
theorem sizeOfCode_bounds (c : Byte) (n : Nat) (h : sizeOfCode c = some n) : 128 ≤ n ∧ n ≤ 2048 := by
  unfold sizeOfCode at h
  split at h
  · rename_i hc
    obtain rfl := Option.some.inj h
    have : c.toNat = 0 ∨ c.toNat = 1 ∨ c.toNat = 2 ∨ c.toNat = 3 ∨ c.toNat = 4 := by omega
    rcases this with h | h | h | h | h <;> rw [h] <;> decide
  · cases h

/-- One FSD sector is well kept at its number. -/
theorem fsdSector_kept (t k : Nat) (stored : Bool) (bs rest : List Byte) (x : Sector)
    (h : fsdSector t k stored bs = some (x, rest)) : Sector.Kept k x ∧ (stored = true → 128 ≤ x.realSize) := by
  unfold fsdSector at h
  split at h
  · split at h
    · cases h
    · split at h
      · split at h
        · split at h
          · cases h
          · rename_i real hreal
            unfold takeBytes at h
            split at h
            · cases h
            · rename_i buf rest3 htb
              split at htb
              · cases htb
                cases h
                have := sizeOfCode_bounds _ _ hreal
                exact ⟨⟨rfl, Memory.ofBytes_wf _ _, Memory.ofBytes_below _ _ (by simp), this.2⟩, fun _ => this.1⟩
              · cases htb
        · cases h
      · rename_i hst
        cases h
        exact ⟨⟨rfl, rfl, rfl, Nat.zero_le _⟩, fun hh => absurd hh hst⟩
  · cases h

/-- The FSD sectors from number `k` on are as many as asked for and well kept. -/
theorem fsdSectors_kept (t : Nat) (stored : Bool) : ∀ (n k : Nat) (bs rest : List Byte) (l : List Sector),
    fsdSectors t stored n k bs = some (l, rest) →
      l.length = n ∧ ∀ i x, l[i]? = some x → Sector.Kept (k + i) x ∧ (stored = true → 128 ≤ x.realSize) := by
  intro n
  induction n with
  | zero => intro k bs rest l h; cases h; exact ⟨rfl, fun i x h => by simp at h⟩
  | succ n ih =>
    intro k bs rest l h
    unfold fsdSectors at h
    split at h
    · cases h
    · rename_i sec rest1 h1
      split at h
      · cases h
      · rename_i secs rest2 h2
        cases h
        obtain ⟨hl, hall⟩ := ih _ _ _ _ h2
        refine ⟨by simp [hl], fun i x hx => ?_⟩
        cases i with
        | zero => simp at hx; subst hx; exact fsdSector_kept _ _ _ _ _ _ h1
        | succ i => simp at hx; have := hall i x hx; rwa [show k + (i + 1) = k + 1 + i by omega]

/-- An FSD track is well kept. -/
theorem fsdTrack_kept (t : Nat) (bs rest : List Byte) (tr : Track) (h : fsdTrack t bs = some (tr, rest)) :
    tr.Kept := by
  unfold fsdTrack at h
  split at h
  · split at h
    · cases h; exact emptyTrack_kept
    · split at h
      · split at h
        · cases h
        · rename_i h2
          cases h
          obtain ⟨hl, hall⟩ := fsdSectors_kept _ _ _ _ _ _ _ h2
          exact ⟨hl, fun i x hx => by simpa using hall i x hx⟩
      · cases h
  · cases h

/-- The FSD tracks are well kept. -/
theorem fsdTracks_kept : ∀ (n t : Nat) (bs : List Byte) (l : List Track), fsdTracks n t bs = some l →
    ∀ tr ∈ l, tr.Kept := by
  intro n
  induction n with
  | zero => intro t bs l h; cases h; simp
  | succ n ih =>
    intro t bs l h
    unfold fsdTracks at h
    split at h
    · cases h
    · rename_i tr rest h1
      rw [Option.map_eq_some_iff] at h
      obtain ⟨l', h2, rfl⟩ := h
      intro x hx
      rcases List.mem_cons.1 hx with rfl | hx
      · exact fsdTrack_kept _ _ _ _ h1
      · exact ih _ _ _ h2 x hx

/-- What `LoadFSD` makes is well kept. -/
theorem fsdDisc_kept (bytes : List Byte) (path : String) (D : Disc) (hd : fsdDisc bytes path = some D) : D.Kept := by
  unfold fsdDisc at hd
  split at hd
  · split at hd
    · cases hd
    · split at hd
      · cases hd
      · rename_i trs ht
        cases hd
        exact Disc.kept_of_heads _ _ _ rfl (headOf_kept _ (fsdTracks_kept _ _ _ _ ht)) (headOf_kept _ (by simp))
  · cases hd

/-! Replacing a drive's disc or file. -/

/-- A disc model whose two discs are well kept is well kept. -/
theorem discKept_of_discs (s : State) (h : ∀ d : Fin 2, (s.disc[d]).Kept) : DiscKept s :=
  fun a => h a.drive a.head a.track

/-- Putting a well-kept disc in a drive keeps the disc model well kept. -/
theorem discKept_set (s : State) (d : Fin 2) (D : Disc) (hD : D.Kept) (hs : DiscKept s) :
    DiscKept { s with disc := s.disc.set d D } := by
  intro a
  unfold trackAt
  by_cases hd : a.drive = d
  · subst hd; simpa using hD a.head a.track
  · have hd' : (d : Nat) ≠ a.drive := fun h => hd (Fin.ext h.symm)
    have : (s.disc.set d D)[a.drive] = s.disc[a.drive] := Vector.getElem_set_ne _ _ hd'
    simp only [this]
    exact hs a

/-- Giving a drive a file in canonical form keeps the backing images so. -/
theorem filesKept_set (s : State) (d : Fin 2) (f : File) (hf : f.wf = true) (hs : FilesKept s) :
    FilesKept (setBacking s d f) := by
  intro e
  unfold setBacking
  by_cases hd : e = d
  · subst hd; simpa using hf
  · have hd' : (d : Nat) ≠ e := fun h => hd (Fin.ext h.symm)
    have : (s.backing.set d f)[e] = s.backing[e] := Vector.getElem_set_ne _ _ hd'
    simp only [this]
    exact hs e

/-- What mounting puts in a drive, and that the other drive keeps what it has. -/
theorem mount_get (d : Fin 2) (D : Disc) (F : File) (s : State) :
    (mount d D F s).disc[d] = D ∧ (mount d D F s).backing[d] = F ∧
      ∀ d' : Fin 2, d' ≠ d → (mount d D F s).disc[d'] = s.disc[d'] ∧ (mount d D F s).backing[d'] = s.backing[d'] := by
  refine ⟨by simp [mount], by simp [mount], fun d' hd => ?_⟩
  have : (d : Nat) ≠ d' := fun hh => hd (Fin.ext hh.symm)
  have h1 : (s.disc.set d D)[d'] = s.disc[d'] := Vector.getElem_set_ne _ _ this
  have h2 : (s.backing.set d F)[d'] = s.backing[d'] := Vector.getElem_set_ne _ _ this
  exact ⟨h1, h2⟩

/-- Everything a mount touches (R720, R722). -/
theorem mount_touches (d : Fin 2) (D : Disc) (F : File) (s : State) : ShellTouches s (mount d D F s) d :=
  ⟨rfl, rfl, (mount_get d D F s).2.2⟩

/-- A track of a mounted disc. -/
theorem trackAt_mount (d h : Fin 2) (t : Fin 80) (D : Disc) (F : File) (s : State) :
    trackAt (mount d D F s) ⟨d, h, t⟩ = D.tracks[h][t] := by
  unfold trackAt; rw [(mount_get d D F s).1]

/-- A file of given bytes holds them. -/
theorem fileHolds_ofBytes (bytes : List Byte) : FileHolds (File.ofBytes bytes) bytes := by
  refine ⟨rfl, fun k => ?_⟩
  simp [File.ofBytes, Memory.read_ofBytes 0 _ _ (Nat.zero_le _)]

/-- A raw track at its address holds the image's bytes (R130). -/
theorem rawTrackHolds_of_eq (u : State) (a : TrackAddr) (bytes : List Byte) (base : Nat)
    (h : trackAt u a = rawTrack a.track.val a.head.val bytes base) : RawTrackHolds u a bytes base := by
  have hs : ∀ i, i < 10 → (trackAt u a).sectorAt i = some (rawSector a.track.val a.head.val bytes base i) := by
    intro i hi; rw [h, rawTrack_sectorAt _ _ _ _ _ hi]
  refine ⟨by rw [h]; rfl, fun i hi => ⟨_, hs i hi, rfl⟩, fun i k hi hk => ?_⟩
  unfold discRead
  rw [hs i hi]
  show (if k < 256 then _ else _) = _
  rw [if_pos hk, rawSector_read _ _ _ _ _ _ hk]

/-- Unmounting empties the drive (R133). -/
theorem unmount_empties (d : Fin 2) (s : State) : DriveEmptied s (unmount d s) d := by
  refine ⟨mount_touches _ _ _ _, ?_, fun h t => ?_, ?_⟩
  · unfold unmount; rw [(mount_get d emptyDisc emptyFile s).1]; rfl
  · unfold unmount; rw [trackAt_mount]; simp [emptyDisc, emptyTrack]
  · unfold unmount; rw [(mount_get d emptyDisc emptyFile s).2.1]; exact ⟨rfl, fun k => rfl⟩

/-! The reset state's memory. -/

/-- The reset state's disc model lists no byte: every buffer and both backing images are in canonical form. -/
theorem reset_memory_wf :
    (∀ (a : TrackAddr) (i : Nat), (trackAt State.reset a).sectorAt i = none) ∧
      ∀ d : Fin 2, State.reset.backing[d] = emptyFile ∧ emptyFile.wf = true := by
  constructor
  · intro a i
    have hd : ∀ d : Fin 2, State.reset.disc[d] = emptyDisc := fun d =>
      match d with
      | 0 => rfl
      | 1 => rfl
    have ht : trackAt State.reset a = emptyTrack := by
      unfold trackAt; rw [hd a.drive]; simp [emptyDisc]
    rw [ht]; simp [Track.sectorAt, emptyTrack]
  · intro d
    match d with
    | 0 => exact ⟨rfl, rfl⟩
    | 1 => exact ⟨rfl, rfl⟩

end Sys2Proof.Machine
end

