-- ==== Sys2Proof/Laws/Fsd.lean ====
section
/-! SUPPORT. The FSD loader on the bytes an FSD image is written in (R132): each parser reads back exactly what its writer
wrote and leaves the rest; it answers none at a size code above 4, and on every proper prefix of what it expects. -/

namespace Sys2Proof.Machine

/-! Reading back. -/

/-- R111: the size codes that are defined. -/
theorem sizeOfCode_of_le (c : Byte) (h : c.toNat ≤ 4) : sizeOfCode c = some (128 * 2 ^ c.toNat) := if_pos h

/-- R111: the size codes that are not. -/
theorem sizeOfCode_of_gt (c : Byte) (h : 4 < c.toNat) : sizeOfCode c = none := if_neg (by omega)

/-- Exactly the bytes in front are taken. -/
theorem takeBytes_append (n : Nat) (xs rest : List Byte) (h : xs.length = n) :
    takeBytes n (xs ++ rest) = some (xs, rest) := by
  subst h; simp [takeBytes]

/-- Too few bytes are not taken. -/
theorem takeBytes_short (n : Nat) (xs : List Byte) (h : xs.length < n) : takeBytes n xs = none := if_neg (by omega)

/-- The sector the loader makes of a written one. -/
def FsdSector.loaded (t k : Nat) (stored : Bool) (x : FsdSector) : Sector :=
  { id := x.id, pcyl := t, record := k, idSize := 128 * 2 ^ x.id.sizeCode.toNat
    realSize := if stored = true then 128 * 2 ^ x.realCode.toNat else 0
    error := if stored = true then x.error else 0x00
    data := if stored = true then Memory.ofBytes 0 x.data else [] }

/-- A written sector whose size codes R111 defines, with as many data bytes as they say. -/
structure FsdSector.Ok (stored : Bool) (x : FsdSector) : Prop where
  idSize : x.id.sizeCode.toNat ≤ 4
  realSize : stored = true → x.realCode.toNat ≤ 4
  length : stored = true → x.data.length = 128 * 2 ^ x.realCode.toNat

/-- A written sector is read back. -/
theorem fsdSector_bytes (t k : Nat) (stored : Bool) (x : FsdSector) (rest : List Byte) (h : x.Ok stored) :
    fsdSector t k stored (x.bytes stored ++ rest) = some (x.loaded t k stored, rest) := by
  cases stored with
  | false => simp [fsdSector, FsdSector.bytes, FsdSector.loaded, sizeOfCode_of_le _ h.idSize]
  | true =>
    simp [fsdSector, FsdSector.bytes, FsdSector.loaded, sizeOfCode_of_le _ h.idSize,
      sizeOfCode_of_le _ (h.realSize rfl), takeBytes_append _ _ rest (h.length rfl)]

/-- A written sector with a size code above 4 is refused. -/
theorem fsdSector_badCode (t k : Nat) (stored : Bool) (x : FsdSector) (rest : List Byte)
    (h : ¬ (x.id.sizeCode.toNat ≤ 4 ∧ (stored = true → x.realCode.toNat ≤ 4))) :
    fsdSector t k stored (x.bytes stored ++ rest) = none := by
  by_cases h1 : x.id.sizeCode.toNat ≤ 4
  · have h2 : stored = true ∧ 4 < x.realCode.toNat := by
      by_cases hs : stored = true
      · exact ⟨hs, by by_contra hc; exact h ⟨h1, fun _ => by omega⟩⟩
      · exact absurd ⟨h1, fun e => absurd e hs⟩ h
    obtain ⟨rfl, h2⟩ := h2
    simp [fsdSector, FsdSector.bytes, sizeOfCode_of_le _ h1, sizeOfCode_of_gt _ h2]
  · simp [fsdSector, FsdSector.bytes, sizeOfCode_of_gt _ (Nat.lt_of_not_le h1)]

/-- A written sector cut short is refused. -/
theorem fsdSector_short (t k : Nat) (stored : Bool) (x : FsdSector) (n : Nat) (h : x.Ok stored)
    (hn : n < (x.bytes stored).length) : fsdSector t k stored ((x.bytes stored).take n) = none := by
  match n with
  | 0 => simp [fsdSector]
  | 1 => simp [fsdSector, FsdSector.bytes]
  | 2 => simp [fsdSector, FsdSector.bytes]
  | 3 => simp [fsdSector, FsdSector.bytes]
  | 4 =>
    cases stored with
    | false => simp [FsdSector.bytes] at hn
    | true => simp [fsdSector, FsdSector.bytes, sizeOfCode_of_le _ h.idSize]
  | 5 =>
    cases stored with
    | false => simp [FsdSector.bytes] at hn
    | true => simp [fsdSector, FsdSector.bytes, sizeOfCode_of_le _ h.idSize]
  | n + 6 =>
    cases stored with
    | false => simp [FsdSector.bytes] at hn; omega
    | true =>
      have hl := h.length rfl
      have : takeBytes (128 * 2 ^ x.realCode.toNat) (x.data.take n) = none := by
        apply takeBytes_short
        simp [FsdSector.bytes] at hn
        simp; omega
      simp [fsdSector, FsdSector.bytes, sizeOfCode_of_le _ h.idSize, sizeOfCode_of_le _ (h.realSize rfl), this]

/-- The sectors the loader makes of written ones, from number `k` on. -/
def fsdLoaded (t : Nat) (stored : Bool) : Nat → List FsdSector → List Sector
  | _, [] => []
  | k, x :: xs => x.loaded t k stored :: fsdLoaded t stored (k + 1) xs

/-- The loaded sector at an index. -/
theorem fsdLoaded_get (t : Nat) (stored : Bool) (xs : List FsdSector) : ∀ k i,
    (fsdLoaded t stored k xs)[i]? = (xs[i]?).map (FsdSector.loaded t (k + i) stored) := by
  induction xs with
  | nil => intro k i; simp [fsdLoaded]
  | cons x xs ih =>
    intro k i
    cases i with
    | zero => simp [fsdLoaded]
    | succ i => simp [fsdLoaded, ih, Nat.add_assoc, Nat.add_comm 1]

@[simp] theorem fsdLoaded_length (t : Nat) (stored : Bool) (xs : List FsdSector) : ∀ k,
    (fsdLoaded t stored k xs).length = xs.length := by
  induction xs with
  | nil => intro k; rfl
  | cons x xs ih => intro k; simp [fsdLoaded, ih]

/-- Written sectors are read back. -/
theorem fsdSectors_bytes (t : Nat) (stored : Bool) (xs : List FsdSector) : ∀ (k : Nat) (rest : List Byte),
    (∀ x ∈ xs, x.Ok stored) →
      fsdSectors t stored xs.length k (xs.flatMap (FsdSector.bytes stored) ++ rest) =
        some (fsdLoaded t stored k xs, rest) := by
  induction xs with
  | nil => intro k rest _; rfl
  | cons x xs ih =>
    intro k rest h
    simp only [List.flatMap_cons, List.append_assoc, List.length_cons, fsdSectors,
      fsdSector_bytes t k stored x _ (h x (by simp)), ih (k + 1) rest (fun y hy => h y (by simp [hy])), fsdLoaded]

/-- Written sectors, one of which has a size code above 4, are refused. -/
theorem fsdSectors_badCode (t : Nat) (stored : Bool) (xs : List FsdSector) : ∀ (k : Nat) (rest : List Byte),
    (∀ x ∈ xs, stored = true → x.realCode.toNat ≤ 4 → x.data.length = 128 * 2 ^ x.realCode.toNat) →
    ¬ (∀ x ∈ xs, x.id.sizeCode.toNat ≤ 4 ∧ (stored = true → x.realCode.toNat ≤ 4)) →
      fsdSectors t stored xs.length k (xs.flatMap (FsdSector.bytes stored) ++ rest) = none := by
  induction xs with
  | nil => intro k rest _ h; exact absurd (by simp) h
  | cons x xs ih =>
    intro k rest hl h
    simp only [List.flatMap_cons, List.append_assoc, List.length_cons, fsdSectors]
    by_cases hx : x.id.sizeCode.toNat ≤ 4 ∧ (stored = true → x.realCode.toNat ≤ 4)
    · rw [fsdSector_bytes t k stored x _ ⟨hx.1, hx.2, fun hs => hl x (by simp) hs (hx.2 hs)⟩]
      simp only
      rw [ih (k + 1) rest (fun y hy => hl y (by simp [hy]))
        (fun hall => h (fun y hy => by rcases List.mem_cons.1 hy with rfl | hy; exacts [hx, hall y hy]))]
    · rw [fsdSector_badCode t k stored x _ hx]

/-- Cutting two runs of bytes short cuts the first short, or keeps it and cuts the second. -/
theorem take_append_cases (xs ys : List Byte) (n : Nat) (hn : n < (xs ++ ys).length) :
    (n < xs.length ∧ (xs ++ ys).take n = xs.take n) ∨
      ∃ j, n = xs.length + j ∧ j < ys.length ∧ (xs ++ ys).take n = xs ++ ys.take j := by
  by_cases h : n < xs.length
  · exact .inl ⟨h, List.take_append_of_le_length (Nat.le_of_lt h)⟩
  · obtain ⟨j, rfl⟩ := Nat.exists_eq_add_of_le (Nat.le_of_not_lt h)
    refine .inr ⟨j, rfl, by simp at hn; omega, ?_⟩
    rw [List.take_length_add_append]

/-- Written sectors cut short are refused. -/
theorem fsdSectors_short (t : Nat) (stored : Bool) (xs : List FsdSector) : ∀ (k n : Nat),
    (∀ x ∈ xs, x.Ok stored) → n < (xs.flatMap (FsdSector.bytes stored)).length →
      fsdSectors t stored xs.length k ((xs.flatMap (FsdSector.bytes stored)).take n) = none := by
  induction xs with
  | nil => intro k n _ h; simp at h
  | cons x xs ih =>
    intro k n h hn
    rw [List.flatMap_cons] at hn ⊢
    rcases take_append_cases _ _ n hn with ⟨h1, h2⟩ | ⟨j, rfl, h1, h2⟩
    · rw [h2]
      simp only [List.length_cons, fsdSectors, fsdSector_short t k stored x n (h x (by simp)) h1]
    · rw [h2]
      simp only [List.length_cons, fsdSectors, fsdSector_bytes t k stored x _ (h x (by simp)),
        ih (k + 1) j (fun y hy => h y (by simp [hy])) h1]

/-! Tracks. -/

/-- The track the loader makes of a written one. -/
def FsdTrack.loaded (t : Nat) (tr : FsdTrack) : Track :=
  if tr.sectors = [] then emptyTrack
  else
    { readable := tr.stored, logicalSectors := tr.sectors.length, nSectors := tr.sectors.length, gaps := (0, 0, 0)
      sectors := fsdLoaded t tr.stored 0 tr.sectors }

/-- A written track that R132's checks pass. -/
structure FsdTrack.Ok (tr : FsdTrack) : Prop where
  count : tr.sectors.length ≤ 255
  sectors : ∀ x ∈ tr.sectors, x.Ok tr.stored

/-- A sector count of one byte is read back. -/
theorem count_toNat (n : Nat) (h : n ≤ 255) : (BitVec.ofNat 8 n).toNat = n := by simp; omega

/-- A written count is zero only for no sectors. -/
theorem count_eq_zero (n : Nat) (h : n ≤ 255) : (BitVec.ofNat 8 n = 0x00) ↔ n = 0 := by
  rw [← BitVec.toNat_inj, count_toNat n h]; simp

/-- What is read of a written track: nothing more where it has no sectors, else its sectors. -/
theorem fsdTrack_eq (t : Nat) (tr : FsdTrack) (rest : List Byte) (h : tr.sectors ≠ []) (hc : tr.sectors.length ≤ 255) :
    fsdTrack t (tr.trackId :: BitVec.ofNat 8 tr.sectors.length :: tr.readable :: rest) =
      match fsdSectors t tr.stored tr.sectors.length 0 rest with
      | none => none
      | some (secs, rest2) =>
        some ({ readable := tr.stored, logicalSectors := tr.sectors.length, nSectors := tr.sectors.length,
                gaps := (0, 0, 0), sectors := secs }, rest2) := by
  have h0 : ¬ (BitVec.ofNat 8 tr.sectors.length = 0x00) := by
    rw [count_eq_zero _ hc]; simpa using h
  simp only [fsdTrack, if_neg h0, count_toNat _ hc]
  rfl

/-- The bytes of a track that has sectors. -/
theorem FsdTrack.bytes_of_ne (tr : FsdTrack) (h : tr.sectors ≠ []) :
    tr.bytes = tr.trackId :: BitVec.ofNat 8 tr.sectors.length :: tr.readable ::
      tr.sectors.flatMap (FsdSector.bytes tr.stored) := by
  unfold FsdTrack.bytes
  rw [if_neg (by simpa using h)]

/-- The bytes of a track that has none. -/
theorem FsdTrack.bytes_of_eq (tr : FsdTrack) (h : tr.sectors = []) : tr.bytes = [tr.trackId, 0x00] := by
  unfold FsdTrack.bytes
  rw [h]; rfl

/-- A written track is read back. -/
theorem fsdTrack_bytes (t : Nat) (tr : FsdTrack) (rest : List Byte) (h : tr.Ok) :
    fsdTrack t (tr.bytes ++ rest) = some (tr.loaded t, rest) := by
  by_cases he : tr.sectors = []
  · rw [tr.bytes_of_eq he, FsdTrack.loaded, if_pos he]; rfl
  · rw [tr.bytes_of_ne he, FsdTrack.loaded, if_neg he]
    simp only [List.cons_append]
    rw [fsdTrack_eq t tr _ he h.count, fsdSectors_bytes t tr.stored tr.sectors 0 rest h.sectors]

/-- A written track with a size code above 4 is refused. -/
theorem fsdTrack_badCode (t : Nat) (tr : FsdTrack) (rest : List Byte) (hc : tr.sectors.length ≤ 255)
    (hl : ∀ x ∈ tr.sectors, tr.stored = true → x.realCode.toNat ≤ 4 → x.data.length = 128 * 2 ^ x.realCode.toNat)
    (h : ¬ (∀ x ∈ tr.sectors, x.id.sizeCode.toNat ≤ 4 ∧ (tr.stored = true → x.realCode.toNat ≤ 4))) :
    fsdTrack t (tr.bytes ++ rest) = none := by
  have he : tr.sectors ≠ [] := by intro he; rw [he] at h; exact h (by simp)
  rw [tr.bytes_of_ne he]
  simp only [List.cons_append]
  rw [fsdTrack_eq t tr _ he hc, fsdSectors_badCode t tr.stored tr.sectors 0 rest hl h]

/-- A written track cut short is refused. -/
theorem fsdTrack_short (t : Nat) (tr : FsdTrack) (n : Nat) (h : tr.Ok) (hn : n < tr.bytes.length) :
    fsdTrack t (tr.bytes.take n) = none := by
  by_cases he : tr.sectors = []
  · rw [tr.bytes_of_eq he] at hn ⊢
    match n with
    | 0 => rfl
    | 1 => rfl
    | n + 2 => simp at hn
  · rw [tr.bytes_of_ne he] at hn ⊢
    have h0 : ¬ (BitVec.ofNat 8 tr.sectors.length = 0x00) := by
      rw [count_eq_zero _ h.count]; simpa using he
    match n with
    | 0 => rfl
    | 1 => rfl
    | 2 => simp only [List.take_succ_cons, List.take_zero, fsdTrack, if_neg h0]
    | n + 3 =>
      simp only [List.take_succ_cons]
      rw [fsdTrack_eq t tr _ he h.count, fsdSectors_short t tr.stored tr.sectors 0 n h.sectors (by simpa using hn)]

/-- The tracks the loader makes of written ones, from physical track `t` on. -/
def fsdLoadedTracks : Nat → List FsdTrack → List Track
  | _, [] => []
  | t, tr :: trs => tr.loaded t :: fsdLoadedTracks (t + 1) trs

/-- The loaded track at an index. -/
theorem fsdLoadedTracks_get (trs : List FsdTrack) : ∀ t i,
    (fsdLoadedTracks t trs)[i]? = (trs[i]?).map (FsdTrack.loaded (t + i)) := by
  induction trs with
  | nil => intro t i; simp [fsdLoadedTracks]
  | cons tr trs ih =>
    intro t i
    cases i with
    | zero => simp [fsdLoadedTracks]
    | succ i => simp [fsdLoadedTracks, ih, Nat.add_assoc, Nat.add_comm 1]

/-- Written tracks are read back, whatever follows them. -/
theorem fsdTracks_bytes (trs : List FsdTrack) : ∀ (t : Nat) (rest : List Byte), (∀ tr ∈ trs, tr.Ok) →
    fsdTracks trs.length t (trs.flatMap FsdTrack.bytes ++ rest) = some (fsdLoadedTracks t trs) := by
  induction trs with
  | nil => intro t rest _; rfl
  | cons tr trs ih =>
    intro t rest h
    simp only [List.flatMap_cons, List.append_assoc, List.length_cons, fsdTracks,
      fsdTrack_bytes t tr _ (h tr (by simp)), ih (t + 1) rest (fun y hy => h y (by simp [hy])), Option.map_some,
      fsdLoadedTracks]

/-- Written tracks, one of which has a size code above 4, are refused. -/
theorem fsdTracks_badCode (trs : List FsdTrack) : ∀ (t : Nat) (rest : List Byte),
    (∀ tr ∈ trs, tr.sectors.length ≤ 255) →
    (∀ tr ∈ trs, ∀ x ∈ tr.sectors, tr.stored = true → x.realCode.toNat ≤ 4 →
      x.data.length = 128 * 2 ^ x.realCode.toNat) →
    ¬ (∀ tr ∈ trs, ∀ x ∈ tr.sectors, x.id.sizeCode.toNat ≤ 4 ∧ (tr.stored = true → x.realCode.toNat ≤ 4)) →
      fsdTracks trs.length t (trs.flatMap FsdTrack.bytes ++ rest) = none := by
  induction trs with
  | nil => intro t rest _ _ h; exact absurd (by simp) h
  | cons tr trs ih =>
    intro t rest hc hl h
    simp only [List.flatMap_cons, List.append_assoc, List.length_cons, fsdTracks]
    by_cases hx : ∀ x ∈ tr.sectors, x.id.sizeCode.toNat ≤ 4 ∧ (tr.stored = true → x.realCode.toNat ≤ 4)
    · rw [fsdTrack_bytes t tr _ ⟨hc tr (by simp), fun x hm =>
        ⟨(hx x hm).1, (hx x hm).2, fun hs => hl tr (by simp) x hm hs ((hx x hm).2 hs)⟩⟩]
      simp only
      rw [ih (t + 1) rest (fun y hy => hc y (by simp [hy])) (fun y hy => hl y (by simp [hy]))
        (fun hall => h (fun y hy => by rcases List.mem_cons.1 hy with rfl | hy; exacts [hx, hall y hy]))]
      rfl
    · rw [fsdTrack_badCode t tr _ (hc tr (by simp)) (hl tr (by simp)) hx]

/-- Written tracks cut short are refused. -/
theorem fsdTracks_short (trs : List FsdTrack) : ∀ (t n : Nat), (∀ tr ∈ trs, tr.Ok) →
    n < (trs.flatMap FsdTrack.bytes).length →
      fsdTracks trs.length t ((trs.flatMap FsdTrack.bytes).take n) = none := by
  induction trs with
  | nil => intro t n _ h; simp at h
  | cons tr trs ih =>
    intro t n h hn
    rw [List.flatMap_cons] at hn ⊢
    rcases take_append_cases _ _ n hn with ⟨h1, h2⟩ | ⟨j, rfl, h1, h2⟩
    · rw [h2]
      simp only [List.length_cons, fsdTracks, fsdTrack_short t tr n (h tr (by simp)) h1]
    · rw [h2]
      simp only [List.length_cons, fsdTracks, fsdTrack_bytes t tr _ (h tr (by simp)),
        ih (t + 1) j (fun y hy => h y (by simp [hy])) h1]
      rfl

/-! The title and the header. -/

/-- A title without a null is skipped with the null that ends it. -/
theorem skipTitle_append (title rest : List Byte) (h : ∀ c ∈ title, c ≠ 0x00) :
    skipTitle (title ++ 0x00 :: rest) = some rest := by
  induction title with
  | nil => rfl
  | cons c cs ih =>
    simp only [List.cons_append, skipTitle, if_neg (h c (by simp))]
    exact ih (fun d hd => h d (by simp [hd]))

/-- Bytes without a null are no title. -/
theorem skipTitle_none (bs : List Byte) (h : ∀ c ∈ bs, c ≠ 0x00) : skipTitle bs = none := by
  induction bs with
  | nil => rfl
  | cons c cs ih =>
    simp only [skipTitle, if_neg (h c (by simp))]
    exact ih (fun d hd => h d (by simp [hd]))

/-! Images. -/

/-- Every track of a loadable image is one the loader reads back. -/
theorem FsdImage.tracks_ok (m : FsdImage) (hs : m.Shaped) (hl : m.Loadable) : ∀ tr ∈ m.tracks, tr.Ok := fun tr ht =>
  ⟨hs.counts tr ht, fun x hx => ⟨hl.idSizes tr ht x hx, fun hst => hl.realSizes tr ht hst x hx,
    fun hst => hs.lengths tr ht hst x hx (hl.realSizes tr ht hst x hx)⟩⟩

/-- The last track number is read back. -/
theorem FsdImage.last_toNat (m : FsdImage) (hs : m.Shaped) :
    (BitVec.ofNat 8 (m.tracks.length - 1)).toNat = m.tracks.length - 1 :=
  count_toNat _ (by have := hs.tracks; omega)

/-- The header is skipped. -/
theorem FsdImage.drop_header (m : FsdImage) (hs : m.Shaped) (rest : List Byte) : (m.header ++ rest).drop 8 = rest := by
  rw [← hs.header]; exact List.drop_left

/-- The loader after the header and the title: the last track number and the tracks. -/
theorem fsdDisc_eq (m : FsdImage) (hs : m.Shaped) (rest : List Byte) (path : String) :
    fsdDisc (m.header ++ (m.title ++ 0x00 :: BitVec.ofNat 8 (m.tracks.length - 1) :: rest)) path =
      if 40 < m.tracks.length - 1 then none
      else
        (fsdTracks m.tracks.length 0 rest).map (fun trs =>
          { path := path, kind := .fsd, writable := false, headsCode := 1, totalTracks := m.tracks.length
            tracks := #v[headOf trs, headOf []] }) := by
  unfold fsdDisc
  rw [m.drop_header hs, skipTitle_append _ _ hs.title]
  simp only [m.last_toNat hs]
  rw [show m.tracks.length - 1 + 1 = m.tracks.length from by have := hs.tracks; omega]
  show (if 40 < m.tracks.length - 1 then none else _) = _
  split
  · rfl
  · cases fsdTracks m.tracks.length 0 rest <;> rfl

/-- A loadable image is read back, whatever follows it. -/
theorem fsdDisc_bytes (m : FsdImage) (hs : m.Shaped) (hl : m.Loadable) (after : List Byte) (path : String) :
    fsdDisc (m.bytes ++ after) path =
      some { path := path, kind := .fsd, writable := false, headsCode := 1, totalTracks := m.tracks.length
             tracks := #v[headOf (fsdLoadedTracks 0 m.tracks), headOf []] } := by
  simp only [FsdImage.bytes, List.append_assoc, List.cons_append]
  rw [fsdDisc_eq m hs, if_neg (by have := hl.last; omega), fsdTracks_bytes _ _ _ (m.tracks_ok hs hl)]
  rfl

/-- An image that fails one of R132's checks is refused. -/
theorem fsdDisc_refused (m : FsdImage) (hs : m.Shaped) (hl : ¬ m.Loadable) (after : List Byte) (path : String) :
    fsdDisc (m.bytes ++ after) path = none := by
  simp only [FsdImage.bytes, List.append_assoc, List.cons_append]
  rw [fsdDisc_eq m hs]
  split
  · rfl
  · rw [fsdTracks_badCode m.tracks 0 after hs.counts (fun tr ht x hx hst hr => hs.lengths tr ht hst x hx hr)
      (fun hall => hl ⟨by omega, fun tr ht x hx => (hall tr ht x hx).1, fun tr ht hst x hx => (hall tr ht x hx).2 hst⟩)]
    rfl

/-- A loadable image cut short is refused. -/
theorem fsdDisc_short (m : FsdImage) (hs : m.Shaped) (hl : m.Loadable) (n : Nat) (hn : n < m.bytes.length)
    (path : String) : fsdDisc (m.bytes.take n) path = none := by
  unfold FsdImage.bytes at hn ⊢
  rcases take_append_cases _ _ n hn with ⟨h1, h2⟩ | ⟨j, rfl, h1, h2⟩
  · rw [h2]; unfold fsdDisc
    rw [List.drop_eq_nil_of_le (by simp [hs.header])]; rfl
  · rw [h2]
    rcases take_append_cases _ _ j h1 with ⟨h3, h4⟩ | ⟨i, rfl, h3, h4⟩
    · rw [h4]; unfold fsdDisc
      rw [m.drop_header hs,
        skipTitle_none _ (fun c hc => hs.title c (List.mem_of_mem_take hc))]
    · rw [h4]
      match i with
      | 0 =>
        rw [List.take_zero, List.append_nil]; unfold fsdDisc
        rw [m.drop_header hs, skipTitle_none _ hs.title]
      | 1 =>
        unfold fsdDisc
        rw [m.drop_header hs, List.take_succ_cons, List.take_zero,
          skipTitle_append _ _ hs.title]
      | i + 2 =>
        simp only [List.take_succ_cons]
        rw [fsdDisc_eq m hs, if_neg (by have := hl.last; omega),
          fsdTracks_short m.tracks 0 i (m.tracks_ok hs hl) (by simpa using h3)]
        rfl

end Sys2Proof.Machine
end

