-- ==== Sys2Proof/Laws/Ops.lean ====
section
/-! SUPPORT. One lemma for each shared operation that says once everything it can do, for later proofs to cite instead of
unfolding it: the unload scheduling, issuing a whole command, the lookups, the sector setup, the next sector, the
writeback. -/

namespace Sys2Proof.Machine

/-! The unload scheduling (R270, R304). -/

/-- `ScheduleUnload` in the statements' terms. -/
theorem scheduleUnload_eq (s : State) : scheduleUnload s = unloadScheduled s := by
  unfold scheduleUnload unloadScheduled armUnload Config.unloadDelay
  cases s.sched.motorLoaded <;> cases s.sched.trigger <;> simp

/-- The unload scheduling touches the scheduler alone. -/
theorem unloadScheduled_cases (s : State) :
    unloadScheduled s = s ∨
      (s.sched.motorLoaded = true ∧ s.sched.trigger = none ∧
        unloadScheduled s = { s with sched := { s.sched with trigger := some (s.now + 4000000), unloadPending := true } }) := by
  unfold unloadScheduled
  split
  · rename_i h; exact .inr ⟨h.1, h.2, rfl⟩
  · exact .inl rfl

@[simp] theorem unloadScheduled_status (s : State) : (unloadScheduled s).status = s.status := by unfold unloadScheduled; split <;> rfl
@[simp] theorem unloadScheduled_result (s : State) : (unloadScheduled s).result = s.result := by unfold unloadScheduled; split <;> rfl
@[simp] theorem unloadScheduled_data (s : State) : (unloadScheduled s).data = s.data := by unfold unloadScheduled; split <;> rfl
@[simp] theorem unloadScheduled_latch (s : State) : (unloadScheduled s).latch = s.latch := by unfold unloadScheduled; split <;> rfl
@[simp] theorem unloadScheduled_ctrl (s : State) : (unloadScheduled s).ctrl = s.ctrl := by unfold unloadScheduled; split <;> rfl
@[simp] theorem unloadScheduled_xfer (s : State) : (unloadScheduled s).xfer = s.xfer := by unfold unloadScheduled; split <;> rfl
@[simp] theorem unloadScheduled_pos (s : State) : (unloadScheduled s).pos = s.pos := by unfold unloadScheduled; split <;> rfl
@[simp] theorem unloadScheduled_disc (s : State) : (unloadScheduled s).disc = s.disc := by unfold unloadScheduled; split <;> rfl
@[simp] theorem unloadScheduled_backing (s : State) : (unloadScheduled s).backing = s.backing := by unfold unloadScheduled; split <;> rfl
@[simp] theorem unloadScheduled_firstResetDone (s : State) : (unloadScheduled s).firstResetDone = s.firstResetDone := by unfold unloadScheduled; split <;> rfl
@[simp] theorem unloadScheduled_misuse (s : State) : (unloadScheduled s).misuse = s.misuse := by unfold unloadScheduled; split <;> rfl
@[simp] theorem unloadScheduled_cfg (s : State) : (unloadScheduled s).cfg = s.cfg := by unfold unloadScheduled; split <;> rfl
@[simp] theorem unloadScheduled_now (s : State) : (unloadScheduled s).now = s.now := by unfold unloadScheduled; split <;> rfl
@[simp] theorem unloadScheduled_host (s : State) : (unloadScheduled s).host = s.host := by unfold unloadScheduled; split <;> rfl
@[simp] theorem unloadScheduled_returned (s : State) : (unloadScheduled s).returned = s.returned := by unfold unloadScheduled; split <;> rfl
@[simp] theorem unloadScheduled_draws (s : State) : (unloadScheduled s).draws = s.draws := by unfold unloadScheduled; split <;> rfl
@[simp] theorem unloadScheduled_motorLoaded (s : State) : (unloadScheduled s).sched.motorLoaded = s.sched.motorLoaded := by unfold unloadScheduled; split <;> rfl
@[simp] theorem unloadScheduled_headPosition (s : State) : (unloadScheduled s).sched.headPosition = s.sched.headPosition := by unfold unloadScheduled; split <;> rfl

/-- Scheduling the unload twice is scheduling it once. -/
@[simp] theorem unloadScheduled_idem (s : State) : unloadScheduled (unloadScheduled s) = unloadScheduled s := by
  rcases unloadScheduled_cases s with h | ⟨h1, h2, h⟩
  · rw [h, h]
  · rw [h]; unfold unloadScheduled; simp

/-- With an event armed the unload is not scheduled. -/
theorem unloadScheduled_of_armed (s : State) (h : s.sched.trigger ≠ none) : unloadScheduled s = s := by
  unfold unloadScheduled; rw [if_neg (fun c => h c.2)]

/-- Arming an event replaces an unload scheduled before, and none is scheduled after (R301, C18). -/
@[simp] theorem unloadScheduled_armedAt (n : Nat) (s : State) : unloadScheduled (armedAt n s) = armedAt n s :=
  unloadScheduled_of_armed _ (by simp [armedAt])

/-- `Arm` in the statements' terms. -/
theorem arm_eq (n : Nat) (s : State) : arm n s = armedAt n s := rfl

/-! Issuing a whole command (R272). -/

/-- A parameter that is awaited and is not the last one. -/
theorem paramWrite_of_more (s : State) (v : Byte) (c : Command) (he : s.cfg.fdcEnabled = true)
    (hc : s.latch.entry = some c) (h : s.latch.paramReceived + 1 < s.latch.paramExpected) :
    paramWrite v s = unloadScheduled (storeParam v s) := by
  have h1 : s.latch.paramReceived < s.latch.paramExpected := by omega
  have h2 : ¬ (storeParam v s).latch.paramReceived = (storeParam v s).latch.paramExpected := by
    simp only [storeParam]; omega
  simp only [paramWrite, writeWindow, he, paramEffect, hc, h1, h2, if_true, if_false, scheduleUnload_eq]

/-- The last awaited parameter runs the row's setup. -/
theorem paramWrite_of_last (s : State) (v : Byte) (c : Command) (he : s.cfg.fdcEnabled = true)
    (hc : s.latch.entry = some c) (h : s.latch.paramReceived + 1 = s.latch.paramExpected) :
    paramWrite v s =
      unloadScheduled (runSetup c
        { storeParam v s with status := statusLastParam (storeParam v s).status }) := by
  have h1 : s.latch.paramReceived < s.latch.paramExpected := by omega
  have h2 : (storeParam v s).latch.paramReceived = (storeParam v s).latch.paramExpected := by
    simp only [storeParam]; omega
  simp only [paramWrite, writeWindow, he, paramEffect, hc, h1, h2, if_true, scheduleUnload_eq]

/-- A parameter stored before or after the unload is scheduled. -/
theorem storeParam_unloadScheduled (s : State) (v : Byte) :
    storeParam v (unloadScheduled s) = unloadScheduled (storeParam v s) := by
  unfold unloadScheduled storeParam
  by_cases h : s.sched.motorLoaded = true ∧ s.sched.trigger = none <;> simp [h]

/-- All the awaited parameters, one after the other, after the unload has been scheduled once. -/
theorem paramWrites_eq (ps : List Byte) (hps : ps ≠ []) (s : State) (c : Command) (he : s.cfg.fdcEnabled = true)
    (hc : s.latch.entry = some c) (hn : s.latch.paramReceived + ps.length = s.latch.paramExpected) :
    ps.foldl (fun s v => paramWrite v s) (unloadScheduled s) =
      unloadScheduled (runSetup c
        (unloadScheduled
          { ps.foldl (fun s v => storeParam v s) s with
            status := statusLastParam (ps.foldl (fun s v => storeParam v s) s).status })) := by
  induction ps generalizing s with
  | nil => exact absurd rfl hps
  | cons v vs ih =>
    by_cases hv : vs = []
    · subst hv
      simp only [List.foldl_cons, List.foldl_nil]
      rw [paramWrite_of_last _ v c (by simpa using he) (by simpa using hc) (by simpa using hn),
        storeParam_unloadScheduled]
      congr 2
      unfold unloadScheduled
      split <;> rfl
    · have hl : 0 < vs.length := List.length_pos_iff.2 hv
      simp only [List.length_cons] at hn
      simp only [List.foldl_cons]
      rw [paramWrite_of_more _ v c (by simpa using he) (by simpa using hc) (by simp only [unloadScheduled_latch]; omega),
        storeParam_unloadScheduled, unloadScheduled_idem]
      exact ih hv (storeParam v s) he hc (by simp only [storeParam]; omega)

/-- What storing a run of parameters leaves. -/
theorem storeParams_eq (ps : List Byte) (s : State) :
    ps.foldl (fun s v => storeParam v s) s =
      { s with
        status := if ps = [] then s.status else s.status &&& 0xFE
        latch := { s.latch with
          params := paramsStored s.latch.params s.latch.paramReceived ps
          paramReceived := s.latch.paramReceived + ps.length } } := by
  induction ps generalizing s with
  | nil => rfl
  | cons v vs ih =>
    rw [List.foldl_cons, ih]
    simp only [storeParam, statusParam, paramsStored, List.length_cons, reduceCtorEq, if_false]
    congr 2
    · split
      · rfl
      · rw [BitVec.and_assoc]; rfl
    · omega

/-- Issuing a command with as many parameter bytes as its row takes: the setup runs on the state in which all of them
are latched, with the unload scheduled before it when there was a parameter write. -/
theorem issueCommand_eq (code : Byte) (ps : List Byte) (s : State) (he : s.cfg.fdcEnabled = true)
    (hn : ps.length = paramCount s.cfg.unsupportedParams (decodeCommand code)) :
    issueCommand code ps s =
      unloadScheduled (runSetup (decodeCommand code)
        (if ps = [] then issued code (decodeCommand code) ps s
         else unloadScheduled (issued code (decodeCommand code) ps s))) := by
  have hs : (s.status ||| 0x90) &&& 0x7E = (s.status ||| 0x10) &&& 0x7E := by
    generalize s.status = x; revert x; decide
  have hs' : ((s.status ||| 0x90) &&& 0xFE) &&& 0x7F = (s.status ||| 0x10) &&& 0x7E := by
    generalize s.status = x; revert x; decide
  unfold issueCommand commandWrite writeWindow
  simp only [he, if_true, scheduleUnload_eq, commandEffect]
  by_cases hp : ps = []
  · subst hp
    have h0 : paramCount s.cfg.unsupportedParams (decodeCommand code) = 0 := hn.symm
    have hl : (latchCommand code s).latch.paramExpected = 0 := h0
    simp only [hl, if_true, List.foldl_nil]
    congr 2
    simp only [latchCommand, issued, h0, statusLatched, statusImmediate, hs, paramsStored, List.length_nil, mirrorSelect,
      selectFlags]
  · have hpos : 0 < ps.length := List.length_pos_iff.2 hp
    have hl : ¬ (latchCommand code s).latch.paramExpected = 0 := by
      simp only [latchCommand]; omega
    rw [if_neg hl, if_neg hp,
      paramWrites_eq ps hp (latchCommand code s) (decodeCommand code) he rfl (by simp only [latchCommand]; omega)]
    congr 3
    rw [storeParams_eq]
    simp only [hp, if_false, latchCommand, issued, ← hn, statusLatched, statusLastParam, hs', mirrorSelect, selectFlags,
      Nat.zero_add]

/-- A disabled controller ignores every write of a command (R256). -/
theorem issueCommand_disabled (code : Byte) (ps : List Byte) (s : State) (he : s.cfg.fdcEnabled = false) :
    issueCommand code ps s = s := by
  unfold issueCommand commandWrite writeWindow
  simp only [he, Bool.false_eq_true, if_false]
  induction ps with
  | nil => rfl
  | cons v vs ih => rw [List.foldl_cons, show paramWrite v s = s by simp [paramWrite, writeWindow, he]]; exact ih

/-! What the setups read of an issued command. -/

/-- A lookup depends on the disc model and the head's track alone. -/
theorem findTrack_congr (s u : State) (d h : Fin 2) (t : Byte) (hd : u.disc = s.disc)
    (hp : u.pos.physicalTrack = s.pos.physicalTrack) : findTrack u d h t = findTrack s d h t := by
  unfold findTrack
  rw [hp]
  congr 1
  funext p
  rw [trackAt_congr s u _ hd]

/-- `ResolveTrack` depends on the positioning state alone. -/
theorem resolveTrack_pos_congr (s u : State) (t : Byte) (h : u.pos = s.pos) :
    (resolveTrack t u).pos = (resolveTrack t s).pos := by
  simp only [resolveTrack, h]

theorem selDrive_issued (code : Byte) (c : Command) (ps : List Byte) (s : State) :
    selDrive (issued code c ps s) = if code[6] then some (0 : Fin 2) else if code[7] then some 1 else none := by
  simp [selDrive, issued]

/-- A command write keeps the head select (R261, R38). -/
theorem selHead_issued (code : Byte) (c : Command) (ps : List Byte) (s : State) :
    selHead (issued code c ps s) = selHead s := by
  have h : ((code &&& 0xC0) ||| (s.ctrl.driveOut &&& 0x3F)).getLsbD 5 = s.ctrl.driveOut.getLsbD 5 := by
    rw [BitVec.getLsbD_or, BitVec.getLsbD_and, BitVec.getLsbD_and]
    have h1 : (0xC0 : Byte).getLsbD 5 = false := rfl
    have h2 : (0x3F : Byte).getLsbD 5 = true := rfl
    rw [h1, h2]; simp
  simp only [selHead, issued, h]

theorem findTrack_some (s : State) (d h : Fin 2) (t : Byte) (p : Fin 80) (hp : findTrack s d h t = some p) :
    (trackAt s ⟨d, h, p⟩).answersTo t = true := by
  have := List.find?_some hp
  exact this

theorem answersTo_nSectors (tr : Track) (t : Byte) (h : tr.answersTo t = true) : 0 < tr.nSectors := by
  unfold Track.answersTo at h
  split at h
  · rename_i x hx; exact ((tr.sectorAt_some 0 x).1 hx).1
  · cases h

theorem mem_scanOrder (p n i : Nat) : i ∈ scanOrder p n ↔ i < n := by
  unfold scanOrder
  simp only [List.mem_append, List.mem_range'_1, List.mem_range]
  omega

/-- On a well-kept track the record number found is the index of a sector with the ID asked for (R115, R121). -/
theorem findSector_some (tr : Track) (x : Byte) (p r : Nat) (h : tr.Kept) (hr : findSector tr x p = some r) :
    ∃ y, tr.sectorAt r = some y ∧ y.id.sector = x := by
  unfold findSector at hr
  split at hr
  · rename_i i hi
    have hid := List.find?_some hi
    unfold Track.hasIdAt at hid
    cases hs : tr.sectorAt i with
    | none => rw [hs] at hr; cases hr
    | some y =>
      rw [hs] at hr hid
      have hrec := (h.sector _ _ _ hs).1.1
      simp only [Option.map_some, Option.some.injEq] at hr
      rw [hrec] at hr; subst hr
      exact ⟨y, hs, by simpa using hid⟩
  · cases hr

/-- The sector a tick works on, when it exists. -/
theorem currentSector_of_at (s : State) (a : TrackAddr) (i : Nat) (x : Sector) (h : At s a i x) :
    currentSector s = x := by
  obtain ⟨h1, h2, h3⟩ := h
  unfold currentSector workTrack workSector
  rw [h1, h2]
  simp only [Option.getD_some, h3]

/-- A sector that becomes the current one, when it exists on the current track (R350, R351). -/
theorem beginSector_eq (r : Nat) (s : State) (a : TrackAddr) (x : Sector) (ha : s.xfer.curTrack = some a)
    (hx : (trackAt s a).sectorAt r = some x) :
    beginSector r s =
      { s with
        pos := { s.pos with
          positionInTrack := r
          sectorOverRead := decide (x.realSize < s.xfer.requestedLength) }
        xfer := { s.xfer with
          curSector := some r
          byteIndex := 0
          sectorLength := min s.xfer.requestedLength x.realSize } } := by
  unfold beginSector setSectorLength
  rw [currentSector_of_at (toSector r s) a r x ⟨ha, rfl, hx⟩]
  rfl

/-- `SectorSetup` from the drive on, when its checks pass. -/
theorem setupOnDrive_of_found (d : Fin 2) (t sec v : Byte) (s : State) (p : Fin 80) (r : Nat) (x : Sector)
    (hp : findTrack s d (selHead s) t = some p) (hr : (trackAt s ⟨d, selHead s, p⟩).readable = true)
    (hs : findSector (trackAt s ⟨d, selHead s, p⟩) sec s.pos.positionInTrack = some r)
    (hx : (trackAt s ⟨d, selHead s, p⟩).sectorAt r = some x) :
    setupOnDrive d t sec v s =
      .ok { s with
        pos := { s.pos with
          physicalTrack := p
          positionInTrack := r
          sectorOverRead := decide (x.realSize < requestedLength v) }
        xfer := { s.xfer with
          trackAddr := t
          sectorId := sec
          requestedLength := requestedLength v
          sectorLength := min (requestedLength v) x.realSize
          sectorsToGo := (sectorCount v : Int)
          curTrack := some ⟨d, selHead s, p⟩
          curSector := some r
          byteIndex := 0 } } := by
  have hs' : findSector (trackAt (takeOperands t sec v (headTo p s)) ⟨d, selHead s, p⟩) sec
      (takeOperands t sec v (headTo p s)).pos.positionInTrack = some r := hs
  unfold setupOnDrive
  rw [hp]
  dsimp only
  rw [if_pos hr, findFirstSector, hs']
  dsimp only
  rw [beginSector_eq r (onTrack ⟨d, selHead s, p⟩ (takeOperands t sec v (headTo p s))) ⟨d, selHead s, p⟩ x rfl hx]
  rfl

/-- `SectorSetup` when its checks pass is `SectorSetup` from the drive on, after the track is resolved. -/
theorem sectorSetup_of_drive (t sec v : Byte) (nw : Bool) (s : State) (d : Fin 2) (hd : selDrive s = some d)
    (hw : nw = true → s.disc[d].writable = true) :
    sectorSetup t sec v nw s = setupOnDrive d t sec v (resolveTrack t (startWork s)) := by
  unfold sectorSetup
  rw [hd]
  dsimp only
  rw [if_neg (by cases nw <;> simp_all)]

/-- The errors of `SectorSetup`, in the order of its checks (R350, R603). -/
theorem sectorSetup_no_drive (t sec v : Byte) (nw : Bool) (s : State) (hd : selDrive s = none) :
    sectorSetup t sec v nw s = .error (raiseError errNotReady (startWork s)) := by
  unfold sectorSetup; rw [hd]

theorem sectorSetup_not_writable (t sec v : Byte) (s : State) (d : Fin 2) (hd : selDrive s = some d)
    (hw : s.disc[d].writable = false) :
    sectorSetup t sec v true s = .error (raiseError errWriteProtect (startWork s)) := by
  unfold sectorSetup; rw [hd]; dsimp only; rw [hw]; rfl

theorem setupOnDrive_no_track (d : Fin 2) (t sec v : Byte) (s : State) (hp : findTrack s d (selHead s) t = none) :
    setupOnDrive d t sec v s = .error (raiseError errSectorNotFound s) := by
  unfold setupOnDrive; rw [hp]

theorem setupOnDrive_not_readable (d : Fin 2) (t sec v : Byte) (s : State) (p : Fin 80)
    (hp : findTrack s d (selHead s) t = some p) (hr : (trackAt s ⟨d, selHead s, p⟩).readable = false) :
    setupOnDrive d t sec v s = .error (raiseError errSectorNotFound (headTo p s)) := by
  unfold setupOnDrive; rw [hp]; dsimp only; rw [hr]; rfl

theorem setupOnDrive_no_sector (d : Fin 2) (t sec v : Byte) (s : State) (p : Fin 80)
    (hp : findTrack s d (selHead s) t = some p) (hr : (trackAt s ⟨d, selHead s, p⟩).readable = true)
    (hs : findSector (trackAt s ⟨d, selHead s, p⟩) sec s.pos.positionInTrack = none) :
    setupOnDrive d t sec v s = .error (raiseError errSectorNotFound (takeOperands t sec v (headTo p s))) := by
  have hs' : findSector (trackAt (takeOperands t sec v (headTo p s)) ⟨d, selHead s, p⟩) sec
      (takeOperands t sec v (headTo p s)).pos.positionInTrack = none := hs
  unfold setupOnDrive
  rw [hp]
  dsimp only
  rw [if_pos hr, findFirstSector, hs']

/-- Everything `SectorSetup` can do: it finds its sector, or raises one of the four codes having changed `status`, the
positioning state and the operands in the transfer state. -/
theorem sectorSetup_cases (t sec v : Byte) (nw : Bool) (s : State) :
    (∃ code u, sectorSetup t sec v nw s = .error (raiseError code u) ∧
        code ∈ [errNotReady, errWriteProtect, errSectorNotFound, errNotPresent] ∧
        u = { s with status := statusWorking, pos := u.pos, xfer := u.xfer } ∧
        (u.xfer = s.xfer ∨ u.xfer = (takeOperands t sec v s).xfer)) ∨
      ∃ d p r, selDrive s = some d ∧ (nw = true → s.disc[d].writable = true) ∧
        findTrack (resolveTrack t s) d (selHead s) t = some p ∧ (trackAt s ⟨d, selHead s, p⟩).readable = true ∧
        findSector (trackAt s ⟨d, selHead s, p⟩) sec (resolveTrack t s).pos.positionInTrack = some r ∧
        sectorSetup t sec v nw s =
          .ok (beginSector r
            (onTrack ⟨d, selHead s, p⟩ (takeOperands t sec v (headTo p (resolveTrack t (startWork s)))))) := by
  cases hd : selDrive s with
  | none => exact .inl ⟨_, _, sectorSetup_no_drive t sec v nw s hd, by simp, rfl, .inl rfl⟩
  | some d =>
    by_cases hw : nw = true → s.disc[d].writable = true
    · rw [sectorSetup_of_drive t sec v nw s d hd hw]
      have hh : selHead (resolveTrack t (startWork s)) = selHead s := rfl
      cases hp : findTrack (resolveTrack t (startWork s)) d (selHead s) t with
      | none =>
        exact .inl ⟨_, _, setupOnDrive_no_track d t sec v _ hp, by simp, rfl, .inl rfl⟩
      | some p =>
        cases hr : (trackAt (resolveTrack t (startWork s)) ⟨d, selHead s, p⟩).readable with
        | false =>
          exact .inl ⟨_, _, setupOnDrive_not_readable d t sec v _ p hp hr, by simp, rfl, .inl rfl⟩
        | true =>
          cases hs : findSector (trackAt (resolveTrack t (startWork s)) ⟨d, selHead s, p⟩) sec
              (resolveTrack t (startWork s)).pos.positionInTrack with
          | none =>
            exact .inl ⟨_, _, setupOnDrive_no_sector d t sec v _ p hp hr hs, by simp, rfl, .inr rfl⟩
          | some r =>
            refine .inr ⟨d, p, r, rfl, hw, hp, hr, hs, ?_⟩
            have hs' : findSector (trackAt (takeOperands t sec v (headTo p (resolveTrack t (startWork s))))
                ⟨d, selHead s, p⟩) sec
                (takeOperands t sec v (headTo p (resolveTrack t (startWork s)))).pos.positionInTrack = some r := hs
            unfold setupOnDrive
            rw [hh, hp]
            dsimp only
            rw [if_pos hr, findFirstSector, hs']
    · obtain ⟨hn, hw'⟩ := Classical.not_imp.1 hw
      subst hn
      exact .inl ⟨_, _, sectorSetup_not_writable t sec v s d hd (by simpa using hw'), by simp, rfl, .inl rfl⟩

end Sys2Proof.Machine
end

