-- ==== Sys2Proof/Laws/Tick.lean ====
section
/-! SUPPORT. What a tick does, by the path it takes (R305), and what the tick handlers' shared steps do. -/

namespace Sys2Proof.Machine

/-- A due tick is not early (R307). -/
theorem tickIsEarly_of_due (s : State) (h : TickDue s) : tickIsEarly s = false := by
  obtain ⟨t, ht, hn⟩ := h
  unfold tickIsEarly
  rw [ht]
  simpa using hn

/-- A tick that is not due is early. -/
theorem tickIsEarly_of_not_due (s : State) (h : ¬ TickDue s) : tickIsEarly s = true := by
  unfold tickIsEarly
  cases ht : s.sched.trigger with
  | none => rfl
  | some t =>
    have : ¬ t ≤ s.now := fun hn => h ⟨t, ht, hn⟩
    simpa using this

/-- Step 1 of a due tick. -/
theorem enterTick_of_due (s : State) (h : TickDue s) : enterTick s = ticked s := by
  unfold enterTick
  rw [tickIsEarly_of_due s h, Bool.or_false]
  rfl

/-- With a quiet motor a tick goes on to the command (R305 step 2). -/
theorem motor_of_quiet (s : State) (h : MotorQuiet s) :
    (s.cfg.motorModelEnabled && motorHasWork s) = false := by
  rcases h with h | ⟨h1, h2⟩
  · rw [h]; rfl
  · unfold motorHasWork
    rw [h1]
    cases hd : selDrive s with
    | none => simp
    | some d => obtain ⟨h3, h4⟩ := h2 d hd; simp [h3, h4]

/-- A tick with a quiet motor. -/
theorem tick_of_quiet (s : State) (hd : TickDue s) (hq : MotorQuiet s) :
    tick s = unloadScheduled (tickCommand { ticked s with status := s.status ||| 0x08 }) := by
  unfold tick
  rw [enterTick_of_due s hd]
  have hm : ((ticked s).cfg.motorModelEnabled && motorHasWork (ticked s)) = false := motor_of_quiet s hq
  simp only [hm, Bool.false_eq_true, if_false, scheduleUnload_eq]
  rfl

/-- A tick that runs the tick handler of the latched row (R305 step 5). -/
theorem tick_of_handler (s : State) (c : Command) (h : HandlerTick s c) :
    tick s = unloadScheduled (runTick c { ticked s with status := s.status ||| 0x08 }) := by
  rw [tick_of_quiet s h.due h.quiet]
  unfold tickCommand
  have he : isPending s.xfer.nextInterruptIsErr = false := by rw [h.noError]; rfl
  simp only [ticked, he, h.entry, Bool.false_eq_true, if_false]

/-- A tick whose motor has work does the motor step alone (R305 step 2). -/
theorem tick_of_motor (s : State) (hd : TickDue s) (hm : s.cfg.motorModelEnabled = true)
    (hw : motorHasWork s = true) : tick s = motorStep (ticked s) := by
  unfold tick
  rw [enterTick_of_due s hd]
  have hw' : motorHasWork (ticked s) = true := hw
  have hm' : (ticked s).cfg.motorModelEnabled = true := hm
  simp only [hm', hw', Bool.and_self, if_true]

/-! The steps the transfer handlers share. -/

/-- The track a transfer works on. -/
theorem workTrack_of_some (s : State) (a : TrackAddr) (h : s.xfer.curTrack = some a) : workTrack s = a := by
  unfold workTrack; rw [h]; rfl

/-- The sector index a transfer works on. -/
theorem workSector_of_some (s : State) (i : Nat) (h : s.xfer.curSector = some i) : workSector s = i := by
  unfold workSector; rw [h]; rfl

/-- The address of the byte a transfer works on. -/
theorem workByte_of_at (s : State) (a : TrackAddr) (i : Nat) (x : Sector) (h : At s a i x) :
    workByte s = ⟨a, i, s.xfer.byteIndex⟩ := by
  unfold workByte; rw [workTrack_of_some s a h.1, workSector_of_some s i h.2.1]

/-- A byte of a sector that exists, below its size. -/
theorem discRead_of_at (s : State) (a : TrackAddr) (i k : Nat) (x : Sector)
    (hx : (trackAt s a).sectorAt i = some x) (hk : k < x.realSize) :
    discRead s ⟨a, i, k⟩ = some (Memory.read x.data k) := by
  unfold discRead; simp only [hx, hk, if_true]

/-- A track with a sector has `n_sectors` above 0, so the position after it is modulo `n_sectors` (R123). -/
theorem passSector_eq (s : State) (a : TrackAddr) (i : Nat) (x : Sector) (h : At s a i x) :
    passSector s = passed i (trackAt s a).nSectors s := by
  have hn : 0 < (trackAt s a).nSectors := Nat.lt_of_le_of_lt (Nat.zero_le _) (((trackAt s a).sectorAt_some i x).1 h.2.2).1
  unfold passSector passed nextPosition
  rw [workTrack_of_some s a h.1, workSector_of_some s i h.2.1, if_neg (by omega)]

/-- The next sector of a multi-sector command, when the track has it (R354, R402). -/
theorem nextSector_of_found (s : State) (a : TrackAddr) (r : Nat) (y : Sector) (ha : s.xfer.curTrack = some a)
    (hf : findSector (trackAt s a) (s.xfer.sectorId + 1) s.pos.positionInTrack = some r)
    (hy : (trackAt s a).sectorAt r = some y) : nextSector s = armedAt 160 (movedOn r y s) := by
  unfold nextSector
  rw [workTrack_of_some s a ha, hf]
  dsimp only
  rw [beginSector_eq r (nextId s) a y ha hy]
  rfl

/-- A multi-sector command whose next sector is not on the track (R354, R402). -/
theorem nextSector_of_missing (s : State) (a : TrackAddr) (ha : s.xfer.curTrack = some a)
    (hf : findSector (trackAt s a) (s.xfer.sectorId + 1) s.pos.positionInTrack = none) :
    nextSector s = raiseError errSectorNotFound (nextId s) := by
  unfold nextSector
  rw [workTrack_of_some s a ha, hf]

/-- A write tick's store, to a byte that exists (R402). -/
theorem storeData_of_at (s : State) (a : TrackAddr) (i : Nat) (x : Sector) (h : At s a i x)
    (hk : s.xfer.byteIndex < x.realSize) : storeData s = discWrite s ⟨a, i, s.xfer.byteIndex⟩ s.data := by
  unfold storeData storeAddress
  rw [workByte_of_at s a i x h, discRead_of_at s a i _ x h.2.2 hk]
  rfl

/-- A format tick's fill, of a sector that exists (R422). -/
theorem fillCurrent_of_at (s : State) (a : TrackAddr) (i : Nat) (x : Sector) (h : At s a i x) :
    fillCurrent s = discFill s a i 0xE5 := by
  unfold fillCurrent fillAddress
  rw [workTrack_of_some s a h.1, workSector_of_some s i h.2.1, h.2.2]
  rfl

/-! The writeback (R142). -/

/-- The first ten sectors of a well-kept track. -/
theorem firstTen_of_kept (tr : Track) (h : tr.Kept) (hn : 10 ≤ tr.nSectors) :
    firstTen tr = some (tr.sectors.take 10) := by
  unfold firstTen
  rw [if_neg (by omega), if_pos (by rw [h.1]; exact hn)]

/-- A writeback depends on the disc's attributes and the track's headers for whether it reaches the file. -/
theorem writebackBytes_isSome (s : State) (a : TrackAddr) (h : (trackAt s a).Kept) :
    (writebackBytes s.disc[a.drive] (trackAt s a)).isSome = true ↔ WritesBack s a := by
  unfold writebackBytes WritesBack
  generalize s.disc[a.drive] = D
  by_cases h1 : D.kind = .fsd
  · simp [h1]
  · by_cases h2 : D.path = ""
    · simp [h2]
    · by_cases h3 : 10 ≤ (trackAt s a).nSectors
      · rw [if_neg (by simp [h1, h2]), firstTen_of_kept _ h h3]
        have hl : 10 ≤ (trackAt s a).sectors.length := by rw [h.1]; exact h3
        have hall : ((trackAt s a).sectors.take 10).all (fun sec => decide (256 ≤ sec.realSize)) = true ↔
            ∀ i sec, i < 10 → (trackAt s a).sectors[i]? = some sec → 256 ≤ sec.realSize := by
          rw [List.all_eq_true]
          constructor
          · intro hm i sec hi hs
            have : sec ∈ (trackAt s a).sectors.take 10 := by
              rw [List.mem_take_iff_getElem]
              obtain ⟨hil, he⟩ := List.getElem?_eq_some_iff.1 hs
              exact ⟨i, by omega, he⟩
            simpa using hm sec this
          · intro hm sec hs
            obtain ⟨i, hi, he⟩ := List.mem_take_iff_getElem.1 hs
            have := hm i sec (by omega) (List.getElem?_eq_some_iff.2 ⟨by omega, he⟩)
            simpa using this
        dsimp only
        by_cases h4 : ((trackAt s a).sectors.take 10).all (fun sec => decide (256 ≤ sec.realSize)) = true
        · rw [if_pos h4]; simp only [Option.isSome_some, true_iff]; exact ⟨h1, h2, h3, hall.1 h4⟩
        · rw [if_neg h4]
          simp only [Option.isSome_none, Bool.false_eq_true, false_iff]
          exact fun hw => h4 (hall.2 hw.2.2.2)
      · rw [if_neg (by simp [h1, h2])]
        have : firstTen (trackAt s a) = none := by unfold firstTen; rw [if_pos (by omega)]
        rw [this]
        simp [h3]

/-- A writeback that R142 refuses before any file access. -/
theorem writeback_of_refused (a : TrackAddr) (s : State) (h : writebackBytes s.disc[a.drive] (trackAt s a) = none) :
    writeback a s = (false, s) := by
  unfold writeback; rw [h]

/-- A writeback that reaches the file. -/
theorem writeback_of_bytes (a : TrackAddr) (s : State) (bs : List Byte)
    (h : writebackBytes s.disc[a.drive] (trackAt s a) = some bs) :
    writeback a s =
      (Config.writebackOk s.draws,
        setBacking s a.drive
          (if Config.writebackOk s.draws then writtenFile s a bs else File.ofBytes (Config.failedFile s.draws))) := by
  unfold writeback
  rw [h]
  dsimp only
  cases Config.writebackOk s.draws <;> rfl

end Sys2Proof.Machine
end

