-- ==== Sys2Proof/Laws/Kept.lean ====
section
/-! SUPPORT. What the shared operations do to a well-kept state (`Kept`). -/

namespace Sys2Proof.Machine

/-- A state that shares with a well-kept one all that `Kept` looks at, but for legal status bits and a legal count. -/
theorem Kept.congr (s u : State) (h : Kept s) (hstatus : u.status &&& 0x63 = 0x00)
    (hout : u.ctrl.driveOut = s.ctrl.driveOut) (hselect : u.ctrl.select = s.ctrl.select) (hlatch : u.latch = s.latch)
    (hcfg : u.cfg = s.cfg) (herr : u.xfer.nextInterruptIsErr = s.xfer.nextInterruptIsErr)
    (hcount : -1 ≤ u.xfer.sectorsToGo ∧ u.xfer.sectorsToGo ≤ 255) (hsched : u.sched = s.sched)
    (hdisc : u.disc = s.disc) (hfile : u.backing = s.backing) : Kept u := by
  refine ⟨hstatus, ?_, ?_, ?_, hcount, ?_, ?_, ?_⟩
  · have := h.select; unfold SelectKept at *; rw [hout, hselect]; exact this
  · have := h.latch; unfold LatchKept at *; rw [hlatch, hcfg]; exact this
  · have := h.error; unfold ErrorKept at *; rw [herr, hsched]; exact this
  · have := h.sched; unfold SchedKept at *; rw [hsched, hcfg]; exact this
  · intro a; rw [trackAt_congr s u a hdisc]; exact h.disc a
  · have := h.files; unfold FilesKept at *; rw [hfile]; exact this

/-- Setting legal bits of the status keeps it legal (R31). -/
theorem statusReserved_or (a b : Byte) (h : a &&& 0x63 = 0x00) (hb : b &&& 0x63 = 0x00) :
    (a ||| b) &&& 0x63 = 0x00 := by
  rw [BitVec.and_or_distrib_right, h, hb]; rfl

/-- Clearing bits of the status keeps it legal (R31). -/
theorem statusReserved_and (a b : Byte) (h : a &&& 0x63 = 0x00) : (a &&& b) &&& 0x63 = 0x00 := by
  rw [BitVec.and_assoc, BitVec.and_comm b, ← BitVec.and_assoc, h]; simp

/-- Arming an event. -/
theorem arm_kept (d : Nat) (s : State) (h : Kept s) : Kept (arm d s) := by
  refine ⟨h.status, h.select, h.latch, ?_, h.count, ⟨fun hh => by simp [arm] at hh, h.sched.2⟩, h.disc, h.files⟩
  rcases h.error with h1 | ⟨h1, _⟩
  · exact .inl h1
  · exact .inr ⟨h1, rfl, rfl⟩

/-- Raising one of the four command errors (R600). -/
theorem raiseError_kept (c : Byte) (s : State)
    (hc : c ∈ [errNotReady, errWriteProtect, errSectorNotFound, errNotPresent]) (h : Kept s) :
    Kept (raiseError c s) :=
  ⟨h.status, h.select, h.latch, .inr ⟨hc, rfl, rfl⟩, h.count,
    ⟨fun hh => by simp [raiseError, arm] at hh, h.sched.2⟩, h.disc, h.files⟩

/-- Scheduling the unload (R304). -/
theorem scheduleUnload_kept (s : State) (h : Kept s) : Kept (scheduleUnload s) := by
  unfold scheduleUnload
  split
  · rename_i hh
    simp only [Bool.and_eq_true] at hh
    refine ⟨h.status, h.select, h.latch, ?_, h.count, ⟨fun _ => ⟨rfl, hh.1⟩, h.sched.2⟩, h.disc, h.files⟩
    rcases h.error with h1 | ⟨h1, h2, h3⟩
    · exact .inl h1
    · rw [Option.isNone_iff_eq_none] at hh; rw [hh.2] at h2; cases h2
  · exact h

/-- Putting another well-kept disc model in place. -/
theorem disc_kept (s : State) (v : Vector Disc 2) (hd : DiscKept { s with disc := v }) (h : Kept s) :
    Kept { s with disc := v } :=
  ⟨h.status, h.select, h.latch, h.error, h.count, h.sched, hd, h.files⟩

/-- Declaring a track's sector count (R421). -/
theorem setLogicalSectors_kept (s : State) (a : TrackAddr) (n : Nat) (h : Kept s) :
    Kept (setTrack s a { trackAt s a with logicalSectors := n }) := by
  refine disc_kept s _ ?_ h
  intro b
  show (trackAt (setTrack s a _) b).Kept
  rw [trackAt_setTrack]
  split
  · exact h.disc a
  · exact h.disc b

/-- Giving a drive a file in canonical form. -/
theorem setBacking_kept (s : State) (d : Fin 2) (f : File) (hf : f.wf = true) (h : Kept s) : Kept (setBacking s d f) :=
  ⟨h.status, h.select, h.latch, h.error, h.count, h.sched, h.disc, filesKept_set s d f hf h.files⟩

/-- Every setup's first status (R350). -/
theorem startWork_kept (s : State) (h : Kept s) : Kept (startWork s) :=
  Kept.congr s _ h (by show (0x80 : Byte) &&& 0x63 = 0x00; decide) rfl rfl rfl rfl rfl h.count rfl rfl rfl

/-- `ResolveTrack` (R349). -/
theorem resolveTrack_kept (t : Byte) (s : State) (h : Kept s) : Kept (resolveTrack t s) :=
  Kept.congr s _ h h.status rfl rfl rfl rfl rfl h.count rfl rfl rfl

/-- The head's movement to the track found (R120). -/
theorem headTo_kept (p : Fin 80) (s : State) (h : Kept s) : Kept (headTo p s) :=
  Kept.congr s _ h h.status rfl rfl rfl rfl rfl h.count rfl rfl rfl

/-- A sector command's operands (R350). -/
theorem takeOperands_kept (t sec v : Byte) (s : State) (h : Kept s) : Kept (takeOperands t sec v s) := by
  refine Kept.congr s _ h h.status rfl rfl rfl rfl rfl ⟨?_, ?_⟩ rfl rfl rfl
  · show -1 ≤ ((sectorCount v : Nat) : Int); omega
  · show ((sectorCount v : Nat) : Int) ≤ 255; unfold sectorCount; omega

/-- A sector found becomes the current one. -/
theorem beginSector_kept (r : Nat) (s : State) (h : Kept s) : Kept (beginSector r s) :=
  Kept.congr s _ h h.status rfl rfl rfl rfl rfl h.count rfl rfl rfl

/-- The command works on a track. -/
theorem onTrack_kept (a : TrackAddr) (s : State) (h : Kept s) : Kept (onTrack a s) :=
  Kept.congr s _ h h.status rfl rfl rfl rfl rfl h.count rfl rfl rfl

/-- The state a sector command's setup leaves, whether it found its sector or raised an error. -/
def setupState (r : Except State State) : State :=
  match r with
  | .ok u => u
  | .error u => u

/-- `SectorSetup` (R350). -/
theorem sectorSetup_kept (t sec v : Byte) (nw : Bool) (s : State) (h : Kept s) :
    Kept (setupState (sectorSetup t sec v nw s)) := by
  have h0 := startWork_kept s h
  unfold sectorSetup
  split
  · exact raiseError_kept _ _ (by simp) h0
  · split
    · exact raiseError_kept _ _ (by simp) h0
    · have h1 := resolveTrack_kept t _ h0
      unfold setupOnDrive
      split
      · exact raiseError_kept _ _ (by simp) h1
      · rename_i p _
        have h2 := headTo_kept p _ h1
        split
        · have h3 := takeOperands_kept t sec v _ h2
          unfold findFirstSector
          split
          · exact raiseError_kept _ _ (by simp) h3
          · exact beginSector_kept _ _ (onTrack_kept _ _ h3)
        · exact raiseError_kept _ _ (by simp) h2

/-- One sector is passed, while some are still to go (R354). -/
theorem passSector_kept (s : State) (h : Kept s) (hg : 0 ≤ s.xfer.sectorsToGo) : Kept (passSector s) := by
  have hc := h.count.2
  refine Kept.congr s _ h h.status rfl rfl rfl rfl rfl ⟨?_, ?_⟩ rfl rfl rfl
  · show -1 ≤ s.xfer.sectorsToGo - 1; omega
  · show s.xfer.sectorsToGo - 1 ≤ 255; omega

/-- The next logical sector ID (R354). -/
theorem nextId_kept (s : State) (h : Kept s) : Kept (nextId s) :=
  Kept.congr s _ h h.status rfl rfl rfl rfl rfl h.count rfl rfl rfl

/-- Going on to the next sector, or raising 0x18 (R354, R402). -/
theorem nextSector_kept (s : State) (h : Kept s) : Kept (nextSector s) := by
  unfold nextSector
  split
  · exact raiseError_kept _ _ (by simp) (nextId_kept _ h)
  · exact arm_kept _ _ (beginSector_kept _ _ (nextId_kept _ h))

/-- The terminal tick (R354). -/
theorem endTransfer_kept (s : State) (h : Kept s) : Kept (endTransfer s) :=
  arm_kept _ _
    (Kept.congr s _ h (by show (0x9C : Byte) &&& 0x63 = 0x00; decide) rfl rfl rfl rfl rfl
      ⟨by show (-1 : Int) ≤ -1; decide, by show (-1 : Int) ≤ 255; decide⟩ rfl rfl rfl)

/-- The end of Write Data and Format (R402, R403, R422). -/
theorem finishWithWriteback_kept (s : State) (h : Kept s) : Kept (finishWithWriteback s) := by
  have h0 := startWork_kept s h
  have hw : Kept (writeback (workTrack s) (startWork s)).2 := by
    unfold writeback
    split
    · exact h0
    · split
      · exact setBacking_kept _ _ _ (File.write_wf _ _ _ (h0.files _)) h0
      · exact setBacking_kept _ _ _ (File.ofBytes_wf _) h0
  unfold finishWithWriteback
  split
  · rename_i s1 he
    rw [he] at hw
    exact endTransfer_kept _ (Kept.congr s1 _ hw hw.status rfl rfl rfl rfl rfl hw.count rfl rfl rfl)
  · rename_i s1 he; rw [he] at hw; exact raiseError_kept _ _ (by simp) hw

/-- A write tick's store (R402). -/
theorem storeData_kept (s : State) (h : Kept s) : Kept (storeData s) := by
  unfold storeData
  split
  · rename_i a _
    have hd := discWrite_kept s a s.data h.disc
    rw [discWrite_eq] at hd ⊢
    exact disc_kept _ _ hd h
  · exact h

/-- A format tick's fill (R422). -/
theorem fillCurrent_kept (s : State) (h : Kept s) : Kept (fillCurrent s) := by
  unfold fillCurrent
  split
  · rename_i a i _
    have hd := discFill_kept s a i formatFill h.disc
    rw [discFill_eq] at hd ⊢
    exact disc_kept _ _ hd h
  · exact h

/-- A write tick's store leaves the transfer state. -/
@[simp] theorem storeData_xfer (s : State) : (storeData s).xfer = s.xfer := by
  unfold storeData
  split
  · rw [discWrite_eq]
  · rfl

/-- A format tick's fill leaves the transfer state. -/
@[simp] theorem fillCurrent_xfer (s : State) : (fillCurrent s).xfer = s.xfer := by
  unfold fillCurrent
  split
  · rw [discFill_eq]
  · rfl

end Sys2Proof.Machine
end

