-- ==== Sys2Proof/Laws/PerInstr.lean ====
section
/-! SUPPORT. The family of statements made per instruction. `CommandShape`: the length of a command is 1 + n bytes, n
the parameter count of its row (R202), and at most six (R36). -/

namespace Sys2Proof.Laws

/-- The rows 13 to 19 of R212, whose parameter count the spec leaves open. -/
def openCount (c : Command) : Bool :=
  [Command.scan, .scanDel, .write128, .writeDel128, .writeDel, .read128, .verifyDel128].contains c

/-- The parameter bytes of a command are as many as its row says, whatever the open counts are, and at most five. -/
def CommandShape.Statement (i : Instr) : Prop :=
  i.wf = true → ∀ (code : Byte) (ps : List Byte), encode i = .command (code :: ps) →
    ps.length ≤ 5 ∧ ∀ u, openCount (decodeCommand code) = false → ps.length = paramCount u (decodeCommand code)

/-- A command row of a fixed count. -/
theorem commandShape_fixed (i : Instr) (code : Byte) (ps : List Byte) (row : Command)
    (he : encode i = .command (code :: ps)) (hd : decodeCommand code = row) (hl : ps.length ≤ 5)
    (hc : ∀ u, ps.length = paramCount u row) : CommandShape.Statement i := by
  intro _ c qs h
  rw [he] at h
  injection h with h
  injection h with h1 h2
  subst h1; subst h2
  exact ⟨hl, fun u _ => by rw [hd]; exact hc u⟩

/-- A command row of an open count. -/
theorem commandShape_open (i : Instr) (code : Byte) (ps : List Byte) (row : Command)
    (he : encode i = .command (code :: ps)) (hd : decodeCommand code = row)
    (hl : i.wf = true → unsupportedParamsOk ps = true) (ho : openCount row = true) : CommandShape.Statement i := by
  intro hw c qs h
  rw [he] at h
  injection h with h
  injection h with h1 h2
  subst h1; subst h2
  exact ⟨by simpa [unsupportedParamsOk] using hl hw, fun u hf => by rw [hd, ho] at hf; cases hf⟩

/-- An access that is no command. -/
theorem commandShape_access (i : Instr) (h : ∀ bs, encode i ≠ .command bs) : CommandShape.Statement i :=
  fun _ _ _ he => absurd he (h _)

theorem CommandShape.write (ss : BitVec 2) (t sec v : Byte) : CommandShape.Statement (.write ss t sec v) :=
  commandShape_fixed _ _ _ .write rfl (decodeCommand_write ss) (Nat.le_of_ble_eq_true rfl) (fun _ => rfl)
theorem CommandShape.read (ss : BitVec 2) (t sec v : Byte) : CommandShape.Statement (.read ss t sec v) :=
  commandShape_fixed _ _ _ .read rfl (decodeCommand_read ss) (Nat.le_of_ble_eq_true rfl) (fun _ => rfl)
theorem CommandShape.readdel128 (ss : BitVec 2) (t sec : Byte) : CommandShape.Statement (.readdel128 ss t sec) :=
  commandShape_fixed _ _ _ .readDel128 rfl (decodeCommand_readDel128 ss) (Nat.le_of_ble_eq_true rfl) (fun _ => rfl)
theorem CommandShape.readdel (ss : BitVec 2) (t sec v : Byte) : CommandShape.Statement (.readdel ss t sec v) :=
  commandShape_fixed _ _ _ .readDel rfl (decodeCommand_readDel ss) (Nat.le_of_ble_eq_true rfl) (fun _ => rfl)
theorem CommandShape.readid (ss : BitVec 2) (t p n : Byte) : CommandShape.Statement (.readid ss t p n) :=
  commandShape_fixed _ _ _ .readId rfl (decodeCommand_readId ss) (Nat.le_of_ble_eq_true rfl) (fun _ => rfl)
theorem CommandShape.verify (ss : BitVec 2) (t sec v : Byte) : CommandShape.Statement (.verify ss t sec v) :=
  commandShape_fixed _ _ _ .verify rfl (decodeCommand_verify ss) (Nat.le_of_ble_eq_true rfl) (fun _ => rfl)
theorem CommandShape.format (ss : BitVec 2) (t a v b c : Byte) : CommandShape.Statement (.format ss t a v b c) :=
  commandShape_fixed _ _ _ .format rfl (decodeCommand_format ss) (Nat.le_of_ble_eq_true rfl) (fun _ => rfl)
theorem CommandShape.seek (ss : BitVec 2) (t : Byte) : CommandShape.Statement (.seek ss t) :=
  commandShape_fixed _ _ _ .seek rfl (decodeCommand_seek ss) (Nat.le_of_ble_eq_true rfl) (fun _ => rfl)
theorem CommandShape.rdstatus (ss : BitVec 2) : CommandShape.Statement (.rdstatus ss) :=
  commandShape_fixed _ _ _ .readStatus rfl (decodeCommand_readStatus ss) (Nat.le_of_ble_eq_true rfl) (fun _ => rfl)
theorem CommandShape.specify (a b c d : Byte) : CommandShape.Statement (.specify a b c d) :=
  commandShape_fixed _ _ _ .specify rfl decodeCommand_specify (Nat.le_of_ble_eq_true rfl) (fun _ => rfl)
theorem CommandShape.wrspecial (ss : BitVec 2) (r v : Byte) : CommandShape.Statement (.wrspecial ss r v) :=
  commandShape_fixed _ _ _ .writeSpecial rfl (decodeCommand_writeSpecial ss) (Nat.le_of_ble_eq_true rfl) (fun _ => rfl)
theorem CommandShape.rdspecial (ss : BitVec 2) (r : Byte) : CommandShape.Statement (.rdspecial ss r) :=
  commandShape_fixed _ _ _ .readSpecial rfl (decodeCommand_readSpecial ss) (Nat.le_of_ble_eq_true rfl) (fun _ => rfl)
theorem CommandShape.scan (ss : BitVec 2) (ps : List Byte) : CommandShape.Statement (.scan ss ps) :=
  commandShape_open _ _ _ .scan rfl (decodeCommand_scan ss) id rfl
theorem CommandShape.scandel (ss : BitVec 2) (ps : List Byte) : CommandShape.Statement (.scandel ss ps) :=
  commandShape_open _ _ _ .scanDel rfl (decodeCommand_scanDel ss) id rfl
theorem CommandShape.write128 (ss : BitVec 2) (ps : List Byte) : CommandShape.Statement (.write128 ss ps) :=
  commandShape_open _ _ _ .write128 rfl (decodeCommand_write128 ss) id rfl
theorem CommandShape.writedel128 (ss : BitVec 2) (ps : List Byte) : CommandShape.Statement (.writedel128 ss ps) :=
  commandShape_open _ _ _ .writeDel128 rfl (decodeCommand_writeDel128 ss) id rfl
theorem CommandShape.writedel (ss : BitVec 2) (ps : List Byte) : CommandShape.Statement (.writedel ss ps) :=
  commandShape_open _ _ _ .writeDel rfl (decodeCommand_writeDel ss) id rfl
theorem CommandShape.read128 (ss : BitVec 2) (ps : List Byte) : CommandShape.Statement (.read128 ss ps) :=
  commandShape_open _ _ _ .read128 rfl (decodeCommand_read128 ss) id rfl
theorem CommandShape.verifydel128 (ss : BitVec 2) (ps : List Byte) : CommandShape.Statement (.verifydel128 ss ps) :=
  commandShape_open _ _ _ .verifyDel128 rfl (decodeCommand_verifyDel128 ss) id rfl
theorem CommandShape.unknown (code : Byte) : CommandShape.Statement (.unknown code) := by
  intro hw
  exact commandShape_fixed _ code [] .unknown rfl (decodeCommand_fallback code hw) (by decide) (fun _ => rfl) hw
theorem CommandShape.rdstat : CommandShape.Statement .rdstat :=
  commandShape_access _ (fun _ h => by cases h)
theorem CommandShape.rdresult : CommandShape.Statement .rdresult :=
  commandShape_access _ (fun _ h => by cases h)
theorem CommandShape.rddata : CommandShape.Statement .rddata :=
  commandShape_access _ (fun _ h => by cases h)
theorem CommandShape.cmd (v : Byte) : CommandShape.Statement (.cmd v) :=
  commandShape_access _ (fun _ h => by cases h)
theorem CommandShape.param (v : Byte) : CommandShape.Statement (.param v) :=
  commandShape_access _ (fun _ h => by cases h)
theorem CommandShape.reset (v : Byte) : CommandShape.Statement (.reset v) :=
  commandShape_access _ (fun _ h => by cases h)
theorem CommandShape.wrdata (v : Byte) : CommandShape.Statement (.wrdata v) :=
  commandShape_access _ (fun _ h => by cases h)
theorem CommandShape.tick : CommandShape.Statement .tick :=
  commandShape_access _ (fun _ h => by cases h)

end Sys2Proof.Laws
end

