-- ==== Sys2Proof/Tests/Slice0.lean ====
section
/-! SUPPORT. The author's own tests: ill-formed terms refused, one written-out call decoded per constructor, one or two
steps per instruction with results from the spec's vectors (95_test_vectors.md) or computed by hand from its rules, and
for every statement with hypotheses a state that meets them. -/

namespace Sys2Proof.Tests
open Sys2Proof Sys2Proof.Machine

/-! WellFormed refuses. -/

def sixBytes : List Byte := [0x01, 0x02, 0x03, 0x04, 0x05, 0x06]

theorem test_wf_refuses_six_params :
    (Instr.scan 0 sixBytes).wf = false ∧ (Instr.scandel 0 sixBytes).wf = false ∧ (Instr.write128 0 sixBytes).wf = false ∧
      (Instr.writedel128 0 sixBytes).wf = false ∧ (Instr.writedel 0 sixBytes).wf = false ∧
      (Instr.read128 0 sixBytes).wf = false ∧ (Instr.verifydel128 0 sixBytes).wf = false := by decide

theorem test_wf_refuses_a_row_byte_as_fallback :
    (Instr.unknown 0x53).wf = false ∧ (Instr.unknown 0x35).wf = false ∧ (Instr.unknown 0xDE).wf = false := by decide

theorem test_wf_accepts :
    (Instr.scan 0 [0x01, 0x02, 0x03, 0x04, 0x05]).wf = true ∧ (Instr.unknown 0x75).wf = true ∧
      (Instr.unknown 0xFF).wf = true := by decide

/-! Decoding: a call written out from the encodings of 30_encoding.md for every constructor. -/

/-- R210: 0b01_001011, drive 0, then track, sector, size byte (V20). -/
theorem test_decode_write : decode (.command [0b01001011, 0x03, 0x00, 0x21]) = .instr (.write 0b01 0x03 0x00 0x21) := by decide
/-- R201: 0x53 is Read Data for drive 0 (V1). -/
theorem test_decode_read : decode (.command [0b01010011, 0x02, 0x05, 0x21]) = .instr (.read 0b01 0x02 0x05 0x21) := by decide
theorem test_decode_readdel128 : decode (.command [0b10010110, 0x02, 0x05]) = .instr (.readdel128 0b10 0x02 0x05) := by decide
theorem test_decode_readdel : decode (.command [0b01010111, 0x02, 0x05, 0x21]) = .instr (.readdel 0b01 0x02 0x05 0x21) := by decide
/-- V4. -/
theorem test_decode_readid : decode (.command [0b01011011, 0x00, 0x00, 0x02]) = .instr (.readid 0b01 0x00 0x00 0x02) := by decide
theorem test_decode_verify : decode (.command [0b11011111, 0x02, 0x05, 0x21]) = .instr (.verify 0b11 0x02 0x05 0x21) := by decide
/-- V24. -/
theorem test_decode_format :
    decode (.command [0b10100011, 0x00, 0x15, 0x2A, 0x1B, 0x00]) = .instr (.format 0b10 0x00 0x15 0x2A 0x1B 0x00) := by decide
/-- V28. -/
theorem test_decode_seek : decode (.command [0b01101001, 0x64]) = .instr (.seek 0b01 0x64) := by decide
/-- V30. -/
theorem test_decode_rdstatus : decode (.command [0b01101100]) = .instr (.rdstatus 0b01) := by decide
/-- V32. -/
theorem test_decode_specify : decode (.command [0b00110101, 0x0D, 0x0C, 0x0A, 0xC8]) = .instr (.specify 0x0D 0x0C 0x0A 0xC8) := by decide
/-- V36. -/
theorem test_decode_wrspecial : decode (.command [0b01111010, 0x12, 0x05]) = .instr (.wrspecial 0b01 0x12 0x05) := by decide
/-- V34. -/
theorem test_decode_rdspecial : decode (.command [0b01111101, 0x23]) = .instr (.rdspecial 0b01 0x23) := by decide
/-- R212 and V38: Scan Data, no drive, five parameters. -/
theorem test_decode_scan :
    decode (.command [0b00000000, 0x01, 0x02, 0x03, 0x04, 0x05]) = .instr (.scan 0b00 [0x01, 0x02, 0x03, 0x04, 0x05]) := by decide
theorem test_decode_scandel : decode (.command [0b01000100]) = .instr (.scandel 0b01 []) := by decide
theorem test_decode_write128 : decode (.command [0b10001010, 0x02, 0x05]) = .instr (.write128 0b10 [0x02, 0x05]) := by decide
theorem test_decode_writedel128 : decode (.command [0b00001110, 0x02, 0x05]) = .instr (.writedel128 0b00 [0x02, 0x05]) := by decide
theorem test_decode_writedel : decode (.command [0b01001111, 0x02, 0x05, 0x21]) = .instr (.writedel 0b01 [0x02, 0x05, 0x21]) := by decide
/-- V38. -/
theorem test_decode_read128 : decode (.command [0b01010010, 0x02, 0x05]) = .instr (.read128 0b01 [0x02, 0x05]) := by decide
theorem test_decode_verifydel128 : decode (.command [0b01011110, 0x02, 0x05]) = .instr (.verifydel128 0b01 [0x02, 0x05]) := by decide
/-- R213 and V38: 0x75 is not Specify and takes the fallback. -/
theorem test_decode_unknown : decode (.command [0x75]) = .instr (.unknown 0x75) := by decide
/-- R155, R251 to R253. -/
theorem test_decode_reads :
    decode (.readReg 0) = .instr .rdstat ∧ decode (.readReg 1) = .instr .rdresult ∧ decode (.readReg 4) = .instr .rddata := by decide
/-- R155, R257. -/
theorem test_decode_writes :
    decode (.writeReg 0 0x53) = .instr (.cmd 0x53) ∧ decode (.writeReg 1 0x02) = .instr (.param 0x02) ∧
      decode (.writeReg 2 0x01) = .instr (.reset 0x01) ∧ decode (.writeReg 4 0xA5) = .instr (.wrdata 0xA5) := by decide
/-- R10. -/
theorem test_decode_tick : decode .tick = .instr .tick := by decide
/-- R254, R269: the other offsets are no instruction. -/
theorem test_decode_other_offsets :
    decode (.readReg 2) = .otherRead 2 ∧ decode (.readReg 7) = .otherRead 7 ∧ decode (.writeReg 3 0x12) = .otherWrite 3 0x12 := by decide
/-- R202: a mnemonic form of the wrong length is refused by name. -/
theorem test_decode_refuses :
    decode (.command []) = .reject .noCommandByte ∧
      decode (.command [0x53, 0x02]) = .reject (.parameterCount .read 1) ∧
      decode (.command (0x00 :: sixBytes)) = .reject (.parameterCount .scan 6) ∧
      decode (.command [0x75, 0x0D]) = .reject (.parameterCount .unknown 1) := by decide

/-- The table's words, operands zero. -/
theorem test_table_words :
    decodeTableWord 8 0x53 = some (.read 0b01 0 0 0) ∧ decodeTableWord 8 0xA3 = some (.format 0b10 0 0 0 0 0) ∧
      decodeTableWord 8 0x35 = some (.specify 0 0 0 0) ∧ decodeTableWord 0 0 = none := by decide

/-- `withFetchWord` makes the instruction the very next call (V30: result 0x80 | 0x04 | 0x02 and, the empty drive not being
writable, 0x08). -/
theorem test_fetch_word :
    (match step (State.reset.withFetchWord 8 0x6C) with
      | .next u => u.result == 0x8E && u.status == 0x10 && u.host == []
      | _ => false) = true := by decide

/-! States. -/

/-- A disc whose first three tracks on head 0 have ten sectors of 256 bytes; track 2 is not readable; the bytes 0x11 and
0x22 start track 0, and every other byte is 0x00. -/
def testDisc (kind : DiscKind) (path : String) (writable : Bool) : Disc :=
  { path := path, kind := kind, writable := writable, headsCode := 1, totalTracks := 0
    tracks :=
      #v[headOf [rawTrack 0 0 [0x11, 0x22] 0, rawTrack 1 0 [] 0,
        { rawTrack 2 0 [] 0 with readable := false }], headOf []] }

theorem testDisc_kept (kind : DiscKind) (path : String) (w : Bool) : (testDisc kind path w).Kept := by
  refine Disc.kept_of_heads _ _ _ rfl (headOf_kept _ ?_) (headOf_kept _ (by simp))
  intro tr h
  simp only [List.mem_cons, List.not_mem_nil, or_false] at h
  rcases h with rfl | rfl | rfl
  · exact rawTrack_kept _ _ _ _
  · exact rawTrack_kept _ _ _ _
  · have hk := rawTrack_kept 2 0 [] 0
    exact ⟨hk.1, fun i sec hs => ⟨(hk.2 i sec hs).1, fun hr => by cases hr⟩⟩

/-- The reset state with the test disc in drive 0. -/
def onDisc : State := { State.reset with disc := #v[testDisc .ssd "a.ssd" true, emptyDisc] }

/-- What an outcome's next state must meet. -/
def holds (o : Host.Outcome State Fault Refusal) (p : State → Bool) : Bool :=
  match o with
  | .next u => p u
  | .fault _ => false
  | .refused _ => false

/-- A state in which a tick of the row of `code` is due, on drive 0 with the motor loaded and the head at track 0. -/
def working (d : Disc) (code : Byte) (x : Transfer) : State :=
  { State.reset with
    disc := #v[d, emptyDisc]
    latch := { State.reset.latch with
      command := code
      entry := some (decodeCommand code)
      paramExpected := paramCount defaultUnsupportedParams (decodeCommand code)
      paramReceived := paramCount defaultUnsupportedParams (decodeCommand code) }
    ctrl := { resetControl with select := #v[true, false], driveOut := 0x40 }
    sched := ⟨some 0, false, true, #v[0, 0]⟩
    xfer := x }

/-- A transfer at sector index `i`, byte `k`, of track `t` of drive 0, with `n` sectors to go. -/
def moving (t : Fin 80) (i k : Nat) (n : Int) : Transfer :=
  { idleTransfer with
    sectorId := BitVec.ofNat 8 i
    requestedLength := 256
    sectorLength := 256
    sectorsToGo := n
    curTrack := some ⟨0, 0, t⟩
    curSector := some i
    byteIndex := k }

def theDisc : Disc := testDisc .ssd "a.ssd" true

/-! One step each. -/

/-- V1, on the test disc: 0=53 1=01 1=05 1=21. -/
theorem test_read_setup :
    holds (exec (.read 0b01 0x01 0x05 0x21) onDisc) (fun u =>
      u.status == 0x80 && u.pos.physicalTrack == 1 && u.pos.positionInTrack == 5 && u.xfer.sectorLength == 256 &&
        u.xfer.sectorsToGo == 1 && u.sched.trigger == some 160 && u.ctrl.driveOut == 0x40) = true := by decide
/-- V3: sector 0x0A is not on the track; 0x18 waits for a tick 50 cycles later. -/
theorem test_read_no_sector :
    holds (exec (.read 0b01 0x01 0x0A 0x21) onDisc) (fun u =>
      u.status == 0x80 && u.result == 0x00 && u.xfer.nextInterruptIsErr == 0x18 && u.sched.trigger == some 50) = true := by decide
/-- R370: 128 bytes asked of a 256-byte sector, one sector. -/
theorem test_readdel128_setup :
    holds (exec (.readdel128 0b01 0x01 0x05) onDisc) (fun u =>
      u.status == 0x80 && u.xfer.sectorLength == 128 && u.xfer.sectorsToGo == 1 && u.pos.sectorOverRead == false) = true := by decide
/-- R365 with size code 2: 512 bytes asked of a 256-byte sector is an over-read. -/
theorem test_readdel_setup :
    holds (exec (.readdel 0b01 0x00 0x09 0x42) onDisc) (fun u =>
      u.xfer.requestedLength == 512 && u.xfer.sectorLength == 256 && u.pos.sectorOverRead && u.xfer.sectorsToGo == 2) = true := by decide
/-- V20: Write Data waits for its first byte. -/
theorem test_write_setup :
    holds (exec (.write 0b01 0x01 0x00 0x21) onDisc) (fun u =>
      u.status == 0x80 && u.xfer.firstWriteInterrupt && u.xfer.curSector == some 0 && u.sched.trigger == some 160) = true := by decide
/-- V24: an empty drive 1 is not writable. -/
theorem test_write_protected :
    holds (exec (.write 0b10 0x00 0x00 0x21) onDisc) (fun u =>
      u.status == 0x80 && u.xfer.nextInterruptIsErr == 0x12 && u.sched.trigger == some 50) = true := by decide
/-- V25: a count of 0 means 32 ID fields. -/
theorem test_readid_setup :
    holds (exec (.readid 0b01 0x01 0x00 0x00) onDisc) (fun u =>
      u.status == 0x80 && u.xfer.sectorsToGo == 32 && u.xfer.byteIndex == 0 && u.pos.physicalTrack == 1) = true := by decide
/-- V26. -/
theorem test_verify_setup :
    holds (exec (.verify 0b01 0x01 0x05 0x21) onDisc) (fun u =>
      u.status == 0x80 && u.result == 0x00 && u.sched.trigger == some 50) = true := by decide
/-- V23: ten sectors to go from sector index 0, and the track's declared count. -/
theorem test_format_setup :
    holds (exec (.format 0b01 0x01 0x15 0x2A 0x1B 0x00) onDisc) (fun u =>
      u.status == 0x80 && u.xfer.sectorsToGo == 10 && u.xfer.curSector == some 0 && u.xfer.firstWriteInterrupt &&
        (trackAt u ⟨0, 0, 1⟩).logicalSectors == 10) = true := by decide
/-- V24: any other size byte is a geometry error. -/
theorem test_format_geometry :
    holds (exec (.format 0b01 0x03 0x15 0x21 0x1B 0x00) onDisc) (fun u => u.xfer.nextInterruptIsErr == 0x1E) = true := by decide
/-- V28: the operand is latched whole and the physical track clamped. -/
theorem test_seek :
    holds (exec (.seek 0b01 0x64) onDisc) (fun u =>
      u.status == 0x80 && u.ctrl.currentTrack[0] == 0x64 && u.pos.physicalTrack == 79 && u.pos.logicalTrack == 0x00) = true := by decide
/-- V28: with no drive nothing moves and 0x10 is raised. -/
theorem test_seek_no_drive :
    holds (exec (.seek 0b00 0x05) onDisc) (fun u => u.xfer.nextInterruptIsErr == 0x10 && u.pos.physicalTrack == 0) = true := by decide
/-- V30. -/
theorem test_rdstatus :
    holds (exec (.rdstatus 0b01) onDisc) (fun u => u.status == 0x10 && u.result == 0x86 && u.pos.drdsc == 1) = true := by decide
/-- V31: drive 1 is empty; no drive; both. -/
theorem test_rdstatus_variants :
    (holds (exec (.rdstatus 0b10) onDisc) (fun u => u.result == 0xCA) &&
      holds (exec (.rdstatus 0b00) onDisc) (fun u => u.result == 0x80) &&
      holds (exec (.rdstatus 0b11) onDisc) (fun u => u.result == 0xC6)) = true := by decide
/-- V33. -/
theorem test_specify_surface :
    holds (exec (.specify 0x18 0x07 0x09 0x22) onDisc) (fun u =>
      u.ctrl.badTrack[1] == #v[0x07, 0x09] && u.ctrl.currentTrack[1] == 0x22 && u.ctrl.badTrack[0] == #v[0xFF, 0xFF] &&
        u.pos.logicalTrack == 0x00) = true := by decide
/-- V32, with other values: P3 is index count and head load. -/
theorem test_specify_timing :
    holds (exec (.specify 0x0D 0x01 0x02 0x34) onDisc) (fun u =>
      u.ctrl.stepRate == 0x01 && u.ctrl.headSettle == 0x02 && u.ctrl.indexCount == 3 && u.ctrl.headLoad == 4 &&
        u.status == 0x10) = true := by decide
/-- V36. -/
theorem test_wrspecial_current_track :
    holds (exec (.wrspecial 0b01 0x12 0x05) onDisc) (fun u =>
      u.ctrl.currentTrack[0] == 0x05 && u.pos.logicalTrack == 0x05 && u.pos.usingSpecial && u.status == 0x10) = true := by decide
/-- V37. -/
theorem test_wrspecial_output_port :
    holds (exec (.wrspecial 0b00 0x23 0xA0) onDisc) (fun u =>
      u.ctrl.driveOut == 0xA0 && u.ctrl.select == #v[false, true] && selHead u == 1) = true := by decide
/-- V34. -/
theorem test_rdspecial :
    (holds (exec (.rdspecial 0b00 0x10) onDisc) (fun u => u.result == 0xFF) &&
      holds (exec (.rdspecial 0b01 0x23) onDisc) (fun u => u.result == 0x40) &&
      holds (exec (.rdspecial 0b00 0x99) onDisc) (fun u => u.result == 0x00)) = true := by decide
/-- V38, for the seven unsupported commands with their default counts: status 0x10, nothing armed, the select bits copied. -/
theorem test_unsupported :
    ([Instr.scan 0b01 [1, 2, 3, 4, 5], .scandel 0b01 [1, 2, 3, 4, 5], .write128 0b01 [2, 5], .writedel128 0b01 [2, 5],
      .writedel 0b01 [2, 5, 0x21], .read128 0b01 [2, 5], .verifydel128 0b01 [2, 5]].all (fun i =>
        holds (exec i onDisc) (fun u =>
          u.status == 0x10 && u.ctrl.select[0] && u.sched.trigger == none && u.result == 0x00))) = true := by decide
/-- V38: with a parameter missing the command still awaits it. -/
theorem test_unsupported_awaits :
    holds (exec (.scan 0b01 [1, 2, 3, 4]) onDisc) (fun u =>
      u.status == 0x90 && u.latch.paramReceived == 4 && u.latch.paramExpected == 5) = true := by decide
/-- V38: 0x75 takes the fallback. -/
theorem test_unknown :
    holds (exec (.unknown 0x75) onDisc) (fun u =>
      u.status == 0x10 && u.ctrl.select[0] && u.latch.entry == some .unknown && u.sched.trigger == none) = true := by decide
/-- V40. -/
theorem test_rdstat :
    holds (exec .rdstat { onDisc with status := 0x8C }) (fun u => u.returned == 0x8C && u.status == 0x8C) = true := by decide
/-- V40. -/
theorem test_rdresult :
    holds (exec .rdresult { onDisc with status := 0x18, result := 0x12 }) (fun u =>
      u.returned == 0x12 && u.result == 0x00 && u.status == 0x00) = true := by decide
/-- V40. -/
theorem test_rddata :
    holds (exec .rddata { onDisc with status := 0x8C, data := 0xA5 }) (fun u =>
      u.returned == 0xA5 && u.data == 0xA5 && u.status == 0x80) = true := by decide
/-- R256, V40: a disabled controller. -/
theorem test_disabled :
    (holds (exec .rdresult { onDisc with cfg := { defaultStraps with fdcEnabled := false } }) (fun u => u.returned == 0xFF) &&
      holds (exec (.wrdata 0x01) { onDisc with cfg := { defaultStraps with fdcEnabled := false } }) (fun u => u.data == 0x00)) = true := by decide
/-- V1, first row. -/
theorem test_cmd :
    holds (exec (.cmd 0x53) onDisc) (fun u =>
      u.status == 0x90 && u.ctrl.select == #v[true, false] && u.ctrl.driveOut == 0x40 && u.latch.paramExpected == 3) = true := by decide
/-- V42: a command while a command's tick is armed is misuse and runs all the same. -/
theorem test_cmd_while_busy :
    holds (exec (.cmd 0x6C) { onDisc with status := 0x8C, sched := ⟨some 900, false, true, #v[0, 0]⟩ }) (fun u =>
      u.misuse && u.status == 0x1C && u.sched.trigger == some 900 && u.pos.drdsc == 1) = true := by decide
/-- V41: a parameter that nothing awaits is ignored. -/
theorem test_param_ignored :
    holds (exec (.param 0x55) onDisc) (fun u => u.latch.params[0] == 0x00 && u.status == 0x00) = true := by decide
/-- V44: the unload is armed after the trigger is cleared. -/
theorem test_reset_mid_command :
    holds (exec (.reset 0x01) { (working theDisc 0x53 (moving 0 5 7 1)) with status := 0x8C }) (fun u =>
      u.status == 0x00 && u.ctrl.select == #v[false, false] && u.xfer == idleTransfer &&
        u.sched.trigger == some 4000000 && u.sched.unloadPending && u.disc[0].path == "a.ssd") = true := by decide
/-- R267. -/
theorem test_wrdata :
    holds (exec (.wrdata 0x7E) { onDisc with status := 0x8C }) (fun u => u.data == 0x7E && u.status == 0x80) = true := by decide
/-- V1, a byte tick: byte 1 of track 0 sector 0 is 0x22, stored error 0. -/
theorem test_tick_read :
    holds (exec .tick (working theDisc 0x53 (moving 0 0 1 1))) (fun u =>
      u.data == 0x22 && u.status == 0x8C && u.result == 0x00 && u.sched.trigger == some 160 && u.xfer.byteIndex == 2) = true := by decide
/-- V1, the terminal tick. -/
theorem test_tick_read_last :
    holds (exec .tick (working theDisc 0x53 (moving 0 9 255 1))) (fun u =>
      u.data == 0x00 && u.status == 0x9C && u.pos.positionInTrack == 0 && u.xfer.sectorsToGo == -1) = true := by decide

/-! Witnesses: for every statement with hypotheses, a state and operands that meet them, per clause. -/

theorem witness_DecodeOfEncodeIsTheInstruction :
    (Instr.format 0b11 0xFF 0xFF 0xFF 0xFF 0xFF).wf = true ∧ (Instr.scan 0b00 [1, 2, 3, 4, 5]).wf = true := by decide

theorem witness_EncodeOfDecodedIsTheCall :
    decode (.command [0x53, 0x02, 0x05, 0x21]) = .instr (.read 0b01 0x02 0x05 0x21) ∧
      decode (.writeReg 4 0xFF) = .instr (.wrdata 0xFF) := by decide

theorem witness_StepRunsTheDecodedInstruction :
    ({ onDisc with host := [⟨7, .readReg 4⟩] } : State).host = ⟨7, .readReg 4⟩ :: [] ∧
      decode (.readReg 4) = .instr .rddata ∧ Instr.rddata.wf = true := ⟨rfl, rfl, rfl⟩

theorem witness_ReadsOfOtherOffsetsReturnZero :
    ({ onDisc with host := [⟨7, .readReg 2⟩] } : State).cfg.fdcEnabled = true ∧
      (2 : BitVec 3) ∈ ([2, 3, 5, 6, 7] : List (BitVec 3)) ∧ (7 : BitVec 3) ∈ ([2, 3, 5, 6, 7] : List (BitVec 3)) ∧
      ({ onDisc with host := [⟨7, .readReg 2⟩] } : State).host = ⟨7, .readReg 2⟩ :: [] :=
  ⟨rfl, by decide, by decide, rfl⟩

theorem witness_WritesOfOtherOffsetsOnlyScheduleTheUnload :
    ({ onDisc with host := [⟨7, .writeReg 3 0x12⟩] } : State).cfg.fdcEnabled = true ∧
      (3 : BitVec 3) ∈ ([3, 5, 6, 7] : List (BitVec 3)) ∧ (7 : BitVec 3) ∈ ([3, 5, 6, 7] : List (BitVec 3)) ∧
      ({ onDisc with host := [⟨7, .writeReg 3 0x12⟩] } : State).host = ⟨7, .writeReg 3 0x12⟩ :: [] :=
  ⟨rfl, by decide, by decide, rfl⟩

/-- The one hypothesis of HostReadsReturnStatusResultAndData, ReadingResultClearsItAndItsFlags,
ReadingDataClearsItsFlags, WritingDataLoadsItAndClearsItsFlags, ResetLeavesWhatTheSpecLists,
ReadDriveStatusReportsTheDrive, SpecifyLoadsTheSelectedRegisters, ReadSpecialReadsTheMappedRegister and
WriteSpecialWritesTheMappedRegister. -/
theorem witness_enabled : onDisc.cfg.fdcEnabled = true := rfl

theorem witness_CommandWriteLatchesTheCommand :
    onDisc.cfg.fdcEnabled = true ∧ paramCount onDisc.cfg.unsupportedParams (decodeCommand 0x53) ≠ 0 ∧
      paramCount onDisc.cfg.unsupportedParams (decodeCommand 0x6C) = 0 := by decide

/-- A state with three parameters expected and `n` received. -/
def awaiting (n : Nat) : State :=
  { onDisc with
    latch := { State.reset.latch with command := 0x53, entry := some .read, paramExpected := 3, paramReceived := n }
    status := 0x90 }

theorem witness_ParameterWriteStoresCountsAndStarts :
    (awaiting 0).cfg.fdcEnabled = true ∧ (awaiting 0).latch.paramReceived < 16 ∧ (awaiting 0).latch.entry = some .read ∧
      (awaiting 0).latch.paramReceived + 1 < (awaiting 0).latch.paramExpected ∧
      (awaiting 2).latch.paramReceived < 16 ∧ (awaiting 2).latch.entry = some .read ∧
      (awaiting 2).latch.paramReceived + 1 = (awaiting 2).latch.paramExpected ∧
      (awaiting 3).latch.paramExpected ≤ (awaiting 3).latch.paramReceived ∧ onDisc.latch.entry = none ∧
      onDisc.latch.paramReceived < 16 := by decide

/-- A disabled controller whose next call is the given one. -/
def disabled (op : HostOp) : State :=
  { onDisc with cfg := { defaultStraps with fdcEnabled := false }, host := [⟨7, op⟩] }

theorem witness_DisabledControllerReadsFFAndIgnoresWrites :
    (∀ op, (disabled op).cfg.fdcEnabled = false ∧ (disabled op).host = ⟨7, op⟩ :: []) ∧
      Instr.rdstat ≠ .tick ∧ Instr.reset 0x01 ≠ .tick := ⟨fun _ => ⟨rfl, rfl⟩, by decide, by decide⟩

/-- R256 at the offsets without a row: offset 7 reads 0xFF, and a write to offset 3 arms no unload. -/
theorem test_disabled_other_offsets :
    holds (step (disabled (.readReg 7))) (fun u => u.returned == 0xFF) = true ∧
      holds (step { disabled (.writeReg 3 0x55) with sched := { State.reset.sched with motorLoaded := true } })
        (fun u => u.sched.trigger == none && u.host == []) = true := by decide

theorem witness_CommandIsTheSequenceOfItsWrites :
    encode (.rdstatus 0b01) = .command [0x6C] ∧ encode (.seek 0b01 0x64) = .command [0x69, 0x64] := by decide

theorem witness_UnsupportedCommandsOnlyIssue :
    onDisc.cfg.fdcEnabled = true ∧ [(1 : Byte), 2, 3, 4, 5].length = onDisc.cfg.unsupportedParams[0].val ∧
      [(1 : Byte), 2, 3, 4, 5].length = onDisc.cfg.unsupportedParams[1].val ∧
      [(1 : Byte), 2].length = onDisc.cfg.unsupportedParams[2].val ∧
      [(1 : Byte), 2].length = onDisc.cfg.unsupportedParams[3].val ∧
      [(1 : Byte), 2, 3].length = onDisc.cfg.unsupportedParams[4].val ∧
      [(1 : Byte), 2].length = onDisc.cfg.unsupportedParams[5].val ∧
      [(1 : Byte), 2].length = onDisc.cfg.unsupportedParams[6].val ∧ isFallbackByte 0x75 = true := by decide

/-- The sector at index `i` of track `t` of the test disc. -/
def sectorOf (t i : Nat) : Sector := rawSector t 0 (if t = 0 then [0x11, 0x22] else []) 0 i

/-- The five sector commands at sector 9 of track 1, the last one of the track. -/
def lastSector : List Instr :=
  [.read 0b01 0x01 0x09 0x21, .readdel 0b01 0x01 0x09 0xFF, .readdel128 0b01 0x01 0x09, .verify 0b01 0x01 0x09 0x00,
    .write 0b01 0x01 0x09 0x21]

/-- The hypotheses of the three statements about sector commands that find their sector. -/
theorem witness_Finds :
    onDisc.cfg.fdcEnabled = true ∧
      ∀ i ∈ lastSector, ∃ f, sectorForm i = some f ∧ Finds onDisc f ⟨0, 0, 1⟩ 9 (sectorOf 1 9) := by
  refine ⟨rfl, fun i hi => ?_⟩
  simp only [lastSector, List.mem_cons, List.not_mem_nil, or_false] at hi
  rcases hi with rfl | rfl | rfl | rfl | rfl <;>
    exact ⟨_, rfl, ⟨rfl, fun _ => rfl, rfl, by decide, by decide, by decide, by decide⟩⟩

theorem witness_ReadCommandsStartAtTheSectorFound :
    isReadCommand .read = true ∧ isReadCommand .readDel = true ∧ isReadCommand .readDel128 = true := by decide

/-- A sector command on the test disc: no drive; not writable; no track (5); a track not readable (2); no sector (10). -/
theorem witness_SectorCommandSetupErrorsInOrder :
    onDisc.cfg.fdcEnabled = true ∧ (sectorForm (.verify 0b00 0x00 0x00 0x21)).isSome = true ∧
      selectedDrive 0b00 = none ∧ selectedDrive 0b10 = some 1 ∧ onDisc.disc[(1 : Fin 2)].writable = false ∧
      selectedDrive 0b01 = some 0 ∧ onDisc.disc[(0 : Fin 2)].writable = true ∧
      findTrack (resolveTrack 0x05 onDisc) 0 (selHead onDisc) 0x05 = none ∧
      findTrack (resolveTrack 0x02 onDisc) 0 (selHead onDisc) 0x02 = some 2 ∧
      (trackAt onDisc ⟨0, selHead onDisc, 2⟩).readable = false ∧
      findTrack (resolveTrack 0x01 onDisc) 0 (selHead onDisc) 0x01 = some 1 ∧
      (trackAt onDisc ⟨0, selHead onDisc, 1⟩).readable = true ∧
      findSector (trackAt onDisc ⟨0, selHead onDisc, 1⟩) 0x0A (resolveTrack 0x01 onDisc).pos.positionInTrack = none := by
  decide

theorem witness_SectorLookupFindsTheNearestCopy :
    (rawTrack 1 0 [] 0).Kept ∧ findSector (rawTrack 1 0 [] 0) 0x00 9 = some 0 ∧
      (rawTrack 1 0 [] 0).sectorAt 0 = some (rawSector 1 0 [] 0 0) ∧ (rawSector 1 0 [] 0 0).id.sector = 0x00 ∧
      findSector (rawTrack 1 0 [] 0) 0x0A 9 = none :=
  ⟨rawTrack_kept _ _ _ _, by decide, by decide, by decide, by decide⟩

theorem witness_ReadIdStartsAtTheTrackFound :
    onDisc.cfg.fdcEnabled = true ∧ selectedDrive 0b00 = none ∧ selectedDrive 0b11 = some 0 ∧
      findTrack (resolveTrack 0x50 onDisc) 0 (selHead onDisc) 0x50 = none ∧
      findTrack (resolveTrack 0x02 onDisc) 0 (selHead onDisc) 0x02 = some 2 := by decide

theorem witness_FormatChecksInOrderAndStarts :
    onDisc.cfg.fdcEnabled = true ∧ selectedDrive 0b00 = none ∧ selectedDrive 0b10 = some 1 ∧
      onDisc.disc[(1 : Fin 2)].writable = false ∧ selectedDrive 0b01 = some 0 ∧
      onDisc.disc[(0 : Fin 2)].writable = true ∧ (0x21 : Byte) ≠ 0x2A ∧
      (trackAt onDisc ⟨0, selHead onDisc, (resolveTrack 0x03 onDisc).pos.physicalTrack⟩).nSectors < 10 ∧
      10 ≤ (trackAt onDisc ⟨0, selHead onDisc, (resolveTrack 0x02 onDisc).pos.physicalTrack⟩).nSectors := by decide

theorem witness_SeekMovesTheHeadAndLatchesTheTrack :
    onDisc.cfg.fdcEnabled = true ∧ selectedDrive 0b00 = none ∧ selectedDrive 0b10 = some 1 := by decide

/-! Ticks. -/

theorem working_due (d : Disc) (code : Byte) (x : Transfer) : TickDue (working d code x) := ⟨0, rfl, Nat.le_refl 0⟩

theorem working_quiet (d : Disc) (code : Byte) (x : Transfer) : MotorQuiet (working d code x) := by
  refine .inr ⟨rfl, fun e he => ?_⟩
  have : e = 0 := by simpa [selDrive, working] using he.symm
  subst this
  exact ⟨rfl, rfl⟩

theorem working_handler (d : Disc) (code : Byte) (x : Transfer) (h : x.nextInterruptIsErr = 0x00) :
    HandlerTick (working d code x) (decodeCommand code) :=
  ⟨working_due _ _ _, working_quiet _ _ _, h, rfl⟩

theorem working_discKept (kind : DiscKind) (path : String) (w : Bool) (code : Byte) (x : Transfer) :
    DiscKept (working (testDisc kind path w) code x) :=
  discKept_of_discs _ fun d =>
    match d with
    | 0 => testDisc_kept kind path w
    | 1 => emptyDisc_kept

theorem working_filesKept (d : Disc) (code : Byte) (x : Transfer) : FilesKept (working d code x) := fun e =>
  match e with
  | 0 => rfl
  | 1 => rfl

/-- A working state on the test disc is well kept when its count is in range and no error is deferred. -/
theorem working_kept (code : Byte) (x : Transfer) (he : x.nextInterruptIsErr = 0x00)
    (hc : -1 ≤ x.sectorsToGo ∧ x.sectorsToGo ≤ 255) : Kept (working theDisc code x) where
  status := by show (0x00 : Byte) &&& statusReserved = 0x00; decide
  select := ⟨by show (0x40 : Byte).getLsbD 6 = true; decide, by show (0x40 : Byte).getLsbD 7 = false; decide⟩
  latch := ⟨rfl, rfl, Nat.le_refl _⟩
  error := .inl he
  count := hc
  sched := ⟨fun h => by simp [working] at h, fun _ => rfl⟩
  disc := working_discKept _ _ _ _ _
  files := working_filesKept _ _ _

/-- The transfer of `moving` stands at the sector of the test disc. -/
theorem moving_at (code : Byte) (k : Nat) (n : Int) :
    At (working theDisc code (moving 0 9 k n)) ⟨0, 0, 0⟩ 9 (sectorOf 0 9) :=
  ⟨rfl, rfl, by show (theDisc.tracks[(0 : Fin 2)][(0 : Fin 80)]).sectorAt 9 = some (sectorOf 0 9); decide⟩

theorem witness_TickPostsTheDeferredError :
    TickDue (working theDisc 0x53 { idleTransfer with nextInterruptIsErr := 0x18 }) ∧
      MotorQuiet (working theDisc 0x53 { idleTransfer with nextInterruptIsErr := 0x18 }) ∧
      (working theDisc 0x53 { idleTransfer with nextInterruptIsErr := 0x18 }).xfer.nextInterruptIsErr ∉
        ([0x00, 0x0E, 0x20] : List Byte) :=
  ⟨working_due _ _ _, working_quiet _ _ _, by decide⟩

/-- A state whose motor has the given work. -/
def motorState (loaded pending : Bool) (head : Nat) (track : Fin 80) : State :=
  { working theDisc 0x53 idleTransfer with
    sched := ⟨some 0, pending, loaded, #v[head, 0]⟩
    pos := { State.reset.pos with physicalTrack := track } }

theorem witness_TickDoesOneMotorStep :
    (∀ l p h t, TickDue (motorState l p h t) ∧ (motorState l p h t).cfg.motorModelEnabled = true) ∧
      (motorState true true 0 0).sched.unloadPending = true ∧ selDrive (motorState false false 0 0) = some 0 ∧
      (motorState false false 0 0).sched.motorLoaded = false ∧
      (motorState true false 0 1).sched.headPosition[(0 : Fin 2)] + 1 = (motorState true false 0 1).pos.physicalTrack.val ∧
      (motorState true false 1 0).pos.physicalTrack.val + 1 = (motorState true false 1 0).sched.headPosition[(0 : Fin 2)] ∧
      (motorState true false 0 79).sched.headPosition[(0 : Fin 2)] + 79 = (motorState true false 0 79).pos.physicalTrack.val ∧
      (motorState true false 2 0).pos.physicalTrack.val + 2 = (motorState true false 2 0).sched.headPosition[(0 : Fin 2)] :=
  ⟨fun _ _ _ _ => ⟨⟨0, rfl, Nat.le_refl 0⟩, rfl⟩, rfl, rfl, rfl, rfl, rfl, rfl, rfl⟩

theorem witness_TickWithoutHandlerOnlyInterrupts :
    TickDue (working theDisc 0x6C idleTransfer) ∧ MotorQuiet (working theDisc 0x6C idleTransfer) ∧
      (working theDisc 0x6C idleTransfer).xfer.nextInterruptIsErr = 0x00 ∧
      ∀ c, (working theDisc 0x6C idleTransfer).latch.entry = some c →
        c ∉ ([.write, .read, .readDel128, .readDel, .readId, .verify, .format, .seek] : List Command) := by
  refine ⟨working_due _ _ _, working_quiet _ _ _, rfl, fun c hc => ?_⟩
  have h : c = .readStatus := (Option.some.inj hc).symm.trans (by decide)
  subst h
  decide

theorem witness_EarlyTickIsMisuseAndRuns :
    ¬ TickDue onDisc ∧ ¬ TickDue { onDisc with sched := { onDisc.sched with trigger := some 1 } } := by
  constructor
  · rintro ⟨t, h, _⟩; cases h
  · rintro ⟨t, h, hn⟩
    obtain rfl := Option.some.inj h
    exact absurd hn (by decide)

/-- A sector of a stored error, declared size and real size. -/
def codeSector (e : Byte) (idSize real : Nat) : Sector :=
  { id := ⟨0, 0, 0, 1⟩, pcyl := 0, record := 0, idSize := idSize, realSize := real, error := e, data := [] }

/-- A sector for each case, and its result computed by hand from the case's terms. -/
theorem witness_ReadResultFollowsTheNineCases :
    readResult (codeSector 0x00 256 256) 128 false = (0x0E, false) ∧
      readResult (codeSector 0x00 256 256) 256 false = (0x00, false) ∧
      readResult (codeSector 0x00 256 256) 256 true = (0x0E, false) ∧
      readResult (codeSector 0x20 256 256) 128 false = (0x2E, false) ∧
      readResult (codeSector 0x20 256 256) 256 false = (0x20, false) ∧
      readResult (codeSector 0x2E 256 256) 128 false = (0x2E, false) ∧
      readResult (codeSector 0x2E 256 256) 256 false = (0x20, false) ∧
      readResult (codeSector 0xE1 256 256) 256 false = (0x00, false) ∧
      readResult (codeSector 0xE0 256 256) 256 false = (0x0E, false) ∧
      readResult (codeSector 0x0E 256 256) 256 false = (0x0E, true) ∧
      readResult (codeSector 0x0E 256 128) 256 false = (0x0E, false) ∧
      readResult (codeSector 0x7F 256 256) 256 false = (0x7F, false) := by decide

theorem witness_ReadTickDeliversOneByte :
    (∀ n, HandlerTick (working theDisc 0x53 (moving 0 9 254 n)) .read) ∧ isReadCommand .read = true ∧
      (working theDisc 0x53 (moving 0 9 254 (-1))).xfer.sectorsToGo < 0 ∧
      0 ≤ (working theDisc 0x53 (moving 0 9 254 0)).xfer.sectorsToGo ∧
      At (working theDisc 0x53 (moving 0 9 254 0)) ⟨0, 0, 0⟩ 9 (sectorOf 0 9) ∧
      discRead (working theDisc 0x53 (moving 0 9 254 0)) ⟨⟨0, 0, 0⟩, 9, 254⟩ = some 0x00 ∧
      (working theDisc 0x53 (moving 0 9 254 0)).xfer.byteIndex + 1 <
        (working theDisc 0x53 (moving 0 9 254 0)).xfer.sectorLength :=
  ⟨fun n => working_handler _ 0x53 _ rfl, rfl, by decide, by decide, moving_at _ _ _, by decide, by decide⟩

/-- At the end of sector 9 of track 0: the last sector of the transfer; sector ID 0x0A does not follow. At the end of
sector 8: sector ID 9 does. -/
theorem witness_ReadTickAtSectorEndAdvancesOrEnds :
    (∀ i n, HandlerTick (working theDisc 0x53 (moving 0 i 255 n)) .read) ∧
      (∀ n, At (working theDisc 0x53 (moving 0 9 255 n)) ⟨0, 0, 0⟩ 9 (sectorOf 0 9)) ∧
      At (working theDisc 0x53 (moving 0 8 255 2)) ⟨0, 0, 0⟩ 8 (sectorOf 0 8) ∧
      discRead (working theDisc 0x53 (moving 0 9 255 1)) ⟨⟨0, 0, 0⟩, 9, 255⟩ = some 0x00 ∧
      discRead (working theDisc 0x53 (moving 0 8 255 2)) ⟨⟨0, 0, 0⟩, 8, 255⟩ = some 0x00 ∧
      (moving 0 9 255 1).sectorLength ≤ (moving 0 9 255 1).byteIndex + 1 ∧ (moving 0 9 255 1).sectorsToGo ≤ 1 ∧
      1 < (moving 0 9 255 2).sectorsToGo ∧
      findSector (trackAt (working theDisc 0x53 (moving 0 9 255 2)) ⟨0, 0, 0⟩) (0x09 + 1) 0 = none ∧
      findSector (trackAt (working theDisc 0x53 (moving 0 8 255 2)) ⟨0, 0, 0⟩) (0x08 + 1) 9 = some 9 ∧
      (trackAt (working theDisc 0x53 (moving 0 8 255 2)) ⟨0, 0, 0⟩).sectorAt 9 = some (sectorOf 0 9) :=
  ⟨fun i n => working_handler _ 0x53 _ rfl, fun n => moving_at _ _ n, ⟨rfl, rfl, by decide⟩, by decide, by decide,
    by decide, by decide, by decide, by decide, by decide, by decide⟩

theorem witness_WriteTickRequestsAndStoresBytes :
    (∀ x, x.nextInterruptIsErr = 0x00 → HandlerTick (working theDisc 0x4B x) .write) ∧
      (moving 0 9 254 (-1)).sectorsToGo < 0 ∧ (moving 0 9 254 1).firstWriteInterrupt = false ∧
      ({ moving 0 9 0 1 with firstWriteInterrupt := true } : Transfer).firstWriteInterrupt = true ∧
      DiscKept (working theDisc 0x4B (moving 0 9 254 1)) ∧
      At (working theDisc 0x4B (moving 0 9 254 1)) ⟨0, 0, 0⟩ 9 (sectorOf 0 9) ∧
      (moving 0 9 254 1).byteIndex < (sectorOf 0 9).realSize ∧
      (moving 0 9 254 1).byteIndex + 1 < (moving 0 9 254 1).sectorLength :=
  ⟨fun x h => working_handler _ 0x4B x h, by decide, rfl, rfl, working_discKept _ _ _ _ _, moving_at _ _ _, by decide,
    by decide⟩

/-- Whether the test disc's track 0 is written back is settled by its kind and path. -/
theorem working_writesBack (kind : DiscKind) (path : String) (code : Byte) (x : Transfer) (hk : kind ≠ .fsd)
    (hp : path ≠ "") : WritesBack (working (testDisc kind path true) code x) ⟨0, 0, 0⟩ := by
  refine ⟨hk, hp, ?_, ?_⟩
  · show 10 ≤ ((headOf _)[(0 : Fin 80)]).nSectors
    rw [headOf_get]; decide
  · intro i sec hi hs
    have : (trackAt (working (testDisc kind path true) code x) ⟨0, 0, 0⟩) = rawTrack 0 0 [0x11, 0x22] 0 := by
      show (headOf _)[(0 : Fin 80)] = _
      rw [headOf_get]; rfl
    rw [this] at hs
    simp only [rawTrack, List.getElem?_map, List.getElem?_range hi, Option.map_some, Option.some.injEq] at hs
    subst hs
    exact Nat.le_refl 256

/-- An FSD is not written back (V22). -/
theorem fsd_not_written_back (code : Byte) (x : Transfer) :
    ¬ WritesBack (working (testDisc .fsd "f.fsd" true) code x) ⟨0, 0, 0⟩ := fun h => h.1 rfl

theorem witness_WriteTickAtSectorEndAdvancesOrWritesBack :
    (∀ d i n, HandlerTick (working d 0x4B (moving 0 i 255 n)) .write) ∧
      (∀ kind path n, DiscKept (working (testDisc kind path true) 0x4B (moving 0 9 255 n))) ∧
      (∀ d n, FilesKept (working d 0x4B (moving 0 9 255 n))) ∧
      (∀ n, At (working theDisc 0x4B (moving 0 9 255 n)) ⟨0, 0, 0⟩ 9 (sectorOf 0 9)) ∧
      At (working (testDisc .fsd "f.fsd" true) 0x4B (moving 0 9 255 1)) ⟨0, 0, 0⟩ 9 (sectorOf 0 9) ∧
      At (working theDisc 0x4B (moving 0 8 255 2)) ⟨0, 0, 0⟩ 8 (sectorOf 0 8) ∧
      (moving 0 9 255 1).byteIndex < (sectorOf 0 9).realSize ∧
      (moving 0 9 255 1).sectorLength ≤ (moving 0 9 255 1).byteIndex + 1 ∧
      findSector (trackAt (working theDisc 0x4B (moving 0 8 255 2)) ⟨0, 0, 0⟩) (0x08 + 1) 9 = some 9 ∧
      (trackAt (working theDisc 0x4B (moving 0 8 255 2)) ⟨0, 0, 0⟩).sectorAt 9 = some (sectorOf 0 9) ∧
      findSector (trackAt (working theDisc 0x4B (moving 0 9 255 2)) ⟨0, 0, 0⟩) (0x09 + 1) 0 = none ∧
      WritesBack (working theDisc 0x4B (moving 0 9 255 1)) ⟨0, 0, 0⟩ ∧
      ¬ WritesBack (working (testDisc .fsd "f.fsd" true) 0x4B (moving 0 9 255 1)) ⟨0, 0, 0⟩ :=
  ⟨fun d i n => working_handler d 0x4B _ rfl, fun _ _ _ => working_discKept _ _ _ _ _, fun _ _ => working_filesKept _ _ _,
    fun n => moving_at _ _ n, ⟨rfl, rfl, by decide⟩, ⟨rfl, rfl, by decide⟩, by decide, by decide, by decide, by decide,
    by decide, working_writesBack _ _ _ _ (by decide) (by decide), fsd_not_written_back _ _⟩

theorem witness_FormatTickTakesIdBytes :
    (∀ x, x.nextInterruptIsErr = 0x00 → HandlerTick (working theDisc 0x63 x) .format) ∧
      (moving 0 0 0 (-1)).sectorsToGo < 0 ∧
      ({ moving 0 0 0 10 with firstWriteInterrupt := true } : Transfer).firstWriteInterrupt = true ∧
      (moving 0 0 2 10).firstWriteInterrupt = false ∧ (moving 0 0 2 10).byteIndex < 3 ∧ 0 ≤ (moving 0 0 2 10).sectorsToGo :=
  ⟨fun x h => working_handler _ 0x63 x h, by decide, rfl, rfl, by decide, by decide⟩

theorem witness_FormatTickFillsTheSector :
    (∀ d n, HandlerTick (working d 0x63 (moving 0 9 3 n)) .format) ∧
      (∀ kind path n, DiscKept (working (testDisc kind path true) 0x63 (moving 0 9 3 n))) ∧
      (∀ d n, FilesKept (working d 0x63 (moving 0 9 3 n))) ∧
      (∀ n, At (working theDisc 0x63 (moving 0 9 3 n)) ⟨0, 0, 0⟩ 9 (sectorOf 0 9)) ∧
      At (working (testDisc .fsd "f.fsd" true) 0x63 (moving 0 9 3 1)) ⟨0, 0, 0⟩ 9 (sectorOf 0 9) ∧
      (moving 0 9 3 1).firstWriteInterrupt = false ∧ (moving 0 9 3 1).byteIndex = 3 ∧
      1 < (moving 0 9 3 2).sectorsToGo ∧ (moving 0 9 3 1).sectorsToGo ≤ 1 ∧
      WritesBack (working theDisc 0x63 (moving 0 9 3 1)) ⟨0, 0, 0⟩ ∧
      ¬ WritesBack (working (testDisc .fsd "f.fsd" true) 0x63 (moving 0 9 3 1)) ⟨0, 0, 0⟩ :=
  ⟨fun d n => working_handler d 0x63 _ rfl, fun _ _ _ => working_discKept _ _ _ _ _, fun _ _ => working_filesKept _ _ _,
    fun n => moving_at _ _ n, ⟨rfl, rfl, by decide⟩, rfl, rfl, by decide, by decide,
    working_writesBack _ _ _ _ (by decide) (by decide), fsd_not_written_back _ _⟩

theorem witness_ReadIdTickDeliversOneIdByte :
    (∀ k n, HandlerTick (working theDisc 0x5B (moving 1 0 k n)) .readId) ∧ (moving 1 0 0 (-1)).sectorsToGo < 0 ∧
      (∀ k n, (working theDisc 0x5B (moving 1 0 k n)).xfer.curTrack = some ⟨0, 0, 1⟩) ∧
      (trackAt (working theDisc 0x5B (moving 1 0 0 1)) ⟨0, 0, 1⟩).sectorAt
          ((working theDisc 0x5B (moving 1 0 0 1)).pos.positionInTrack %
            (trackAt (working theDisc 0x5B (moving 1 0 0 1)) ⟨0, 0, 1⟩).nSectors) = some (sectorOf 1 0) ∧
      [(sectorOf 1 0).id.track, (sectorOf 1 0).id.head, (sectorOf 1 0).id.sector, (sectorOf 1 0).id.sizeCode][0]? =
        some 0x01 ∧
      [(sectorOf 1 0).id.track, (sectorOf 1 0).id.head, (sectorOf 1 0).id.sector, (sectorOf 1 0).id.sizeCode][3]? =
        some 0x01 ∧
      (moving 1 0 2 1).byteIndex < 3 ∧ (moving 1 0 3 2).byteIndex = 3 ∧ 1 < (moving 1 0 3 2).sectorsToGo ∧
      (moving 1 0 3 1).sectorsToGo ≤ 1 :=
  ⟨fun k n => working_handler _ 0x5B _ rfl, by decide, fun _ _ => rfl, by decide, by decide, by decide, by decide, rfl,
    by decide, by decide⟩

theorem witness_VerifyAndSeekTicksPostSuccess :
    HandlerTick (working theDisc 0x5F idleTransfer) .verify ∧ HandlerTick (working theDisc 0x69 idleTransfer) .seek :=
  ⟨working_handler _ 0x5F _ rfl, working_handler _ 0x69 _ rfl⟩

/-! Images and whole-machine rules. -/

theorem witness_LoadedSsdHoldsTheImage :
    decide (0x40000 < (List.replicate 0x40001 (0x00 : Byte)).length) = true ∧
      decide (0x40000 < (List.replicate 0x40000 (0x00 : Byte)).length) = false := by
  simp only [List.length_replicate]; decide

theorem witness_LoadedDsdIsInterleavedByTrack : (9 : Nat) < 10 ∧ (255 : Nat) < 256 := by decide

/-! FSD images (R132). -/

/-- Two tracks written out byte by byte from R132: title "A", last track 1; track 0 with one ID-only sector (2, 3, 4, 1);
track 1 with no sectors. -/
theorem test_fsd_ids_only :
    fsdTracks 2 0 [0x00, 0x01, 0x00, 0x02, 0x03, 0x04, 0x01, 0x01, 0x00] =
        some [⟨false, 1, 1, (0, 0, 0), [⟨⟨2, 3, 4, 1⟩, 0, 0, 256, 0, 0x00, []⟩]⟩, emptyTrack] ∧
      skipTitle [0x41, 0x00, 0x01, 0x00] = some [0x01, 0x00] := by decide

/-- The bytes of R132: size code 5, a last track of 41, and a file that ends in its title do not load. -/
theorem test_fsd_fails :
    fsdSector 0 0 false [0x00, 0x00, 0x00, 0x05] = none ∧
      fsdDisc (List.replicate 8 0x00 ++ [0x00, 41]) "" = none ∧
      fsdDisc (List.replicate 8 0x00 ++ [0x41]) "" = none := ⟨by decide, rfl, rfl⟩

/-- A test image of the given tracks. -/
def fsdImage (trs : List FsdTrack) : FsdImage := ⟨List.replicate 8 0x46, [0x41, 0x42], trs⟩

/-- A track with one sector of deleted data of the given size codes. -/
def dataTrack (idCode realCode : Byte) : FsdTrack :=
  ⟨0x07, 0xFF, [⟨⟨0x00, 0x00, 0x01, idCode⟩, realCode, 0x20, List.replicate 128 0xAA⟩]⟩

theorem dataTrack_lengths (idCode : Byte) :
    (dataTrack idCode 0).stored = true → ∀ x ∈ (dataTrack idCode 0).sectors, x.realCode.toNat ≤ 4 →
      x.data.length = 128 * 2 ^ x.realCode.toNat := by simp [dataTrack]

/-- A full image: a track of data, a track of IDs alone, and 39 tracks of nothing. -/
def fullImage : FsdImage :=
  fsdImage (dataTrack 4 0 :: ⟨0x01, 0x00, [⟨⟨0x01, 0x00, 0x01, 0x04⟩, 0x09, 0x00, []⟩]⟩ :: List.replicate 39 ⟨0, 0, []⟩)

/-- What holds of its three kinds of track holds of all its tracks. -/
theorem fullImage_tracks {P : FsdTrack → Prop} (h1 : P (dataTrack 4 0))
    (h2 : P ⟨0x01, 0x00, [⟨⟨0x01, 0x00, 0x01, 0x04⟩, 0x09, 0x00, []⟩]⟩) (h3 : P ⟨0, 0, []⟩) :
    ∀ tr ∈ fullImage.tracks, P tr := by
  intro tr h
  rcases List.mem_cons.1 h with rfl | h
  · exact h1
  · rcases List.mem_cons.1 h with rfl | h
    · exact h2
    · obtain rfl := List.eq_of_mem_replicate h; exact h3

/-- Images that load, at the last track R132 allows, and that fail each of its checks. -/
theorem witness_ShellLoadsFsdEjectsAndSetsWritable :
    (fullImage.Shaped ∧ fullImage.Loadable ∧ fullImage.bytes.length - 1 < fullImage.bytes.length) ∧
      ((fsdImage (List.replicate 42 ⟨0, 0, []⟩)).Shaped ∧ ¬ (fsdImage (List.replicate 42 ⟨0, 0, []⟩)).Loadable) ∧
      ((fsdImage [dataTrack 5 0]).Shaped ∧ ¬ (fsdImage [dataTrack 5 0]).Loadable) ∧
      ((fsdImage [dataTrack 0 5]).Shaped ∧ ¬ (fsdImage [dataTrack 0 5]).Loadable) ∧
      ({ onDisc with host := [⟨7, .shell (.eject 0)⟩] } : State).host = ⟨7, .shell (.eject 0)⟩ :: [] :=
  ⟨⟨⟨by decide, by decide, by decide, by decide, fullImage_tracks (dataTrack_lengths 4) (by decide) (by decide)⟩,
      ⟨by decide, by decide, fullImage_tracks (by decide) (by decide) (by decide)⟩,
      Nat.sub_one_lt (by simp [fullImage, fsdImage, FsdImage.bytes])⟩,
    ⟨⟨by decide, by decide, by decide, by decide, fun tr h => by obtain rfl := List.eq_of_mem_replicate h; decide⟩,
      fun h => absurd h.last (by decide)⟩,
    ⟨⟨by decide, by decide, by decide, by decide, by simpa [fsdImage] using dataTrack_lengths 5⟩,
      fun h => absurd h.idSizes (by decide)⟩,
    ⟨⟨by decide, by decide, by decide, by decide, by decide⟩, fun h => absurd h.realSizes (by decide)⟩, rfl⟩

theorem witness_TrackRegionsAreDisjoint :
    (1 : Nat) < 2 ∧ (79 : Nat) < 80 ∧ ((1 : Nat), (79 : Nat)) ≠ (1, 78) ∧ ((2 : Fin 3) = 1 → (1 : Nat) = 0 ∧ (1 : Nat) = 0) ∧
      ((1 : Fin 3) = 1 → (0 : Nat) = 0 ∧ (0 : Nat) = 0) := by decide

/-- A well-kept state whose next call is a tick that answers a next state. -/
theorem witness_EveryStepKeepsTheState :
    Kept { working theDisc 0x53 (moving 0 9 254 1) with host := [⟨5, .tick⟩] } ∧
      ∃ u, step { working theDisc 0x53 (moving 0 9 254 1) with host := [⟨5, .tick⟩] } = .next u := by
  have h := working_kept 0x53 (moving 0 9 254 1) rfl (by decide)
  exact ⟨⟨h.status, h.select, h.latch, h.error, h.count, h.sched, h.disc, h.files⟩, _, rfl⟩

/-- A read in the middle of a sector is ready for its tick. -/
theorem ready_read (k : Nat) (hk : k < 256) : TransferReady (working theDisc 0x53 (moving 0 9 k 1)) := by
  intro _
  refine ⟨fun h => absurd h (Nat.lt_irrefl _), fun _ => ⟨rfl, .read, ?_, fun _ => ?_⟩⟩
  · show some (decodeCommand 0x53) = some .read
    decide
  · exact ⟨⟨0, 0, 0⟩, 9, sectorOf 0 9, moving_at _ _ _,
      rfl,
      by show 128 ≤ 256; decide, hk, Nat.le_refl 256⟩

theorem witness_WithoutMisuseEveryTransferIsReady :
    Kept (working theDisc 0x53 (moving 0 9 254 1)) ∧ TransferReady (working theDisc 0x53 (moving 0 9 254 1)) ∧
      Working (working theDisc 0x53 (moving 0 9 254 1)) ∧
      ∃ u, step (working theDisc 0x53 (moving 0 9 254 1)) = .next u :=
  ⟨working_kept 0x53 _ rfl (by decide), ready_read 254 (by decide), ⟨rfl, rfl, rfl⟩, _, rfl⟩

/-- One state for each of the transfers: a read, a write, a format and a Read ID. -/
theorem witness_WithoutMisuseNoTickMeetsAMissingByte :
    (∀ code ∈ ([0x53, 0x4B, 0x63, 0x5B] : List Byte), ∀ k n, 0 ≤ n → n ≤ 255 →
        Kept (working theDisc code (moving 0 0 k n)) ∧ (working theDisc code (moving 0 0 k n)).misuse = false ∧
        HandlerTick (working theDisc code (moving 0 0 k n)) (decodeCommand code) ∧
        (working theDisc code (moving 0 0 k n)).sched.unloadPending = false) ∧
      TransferReady (working theDisc 0x53 (moving 0 9 255 1)) ∧ TransferReady (working theDisc 0x4B (moving 0 0 255 1)) ∧
      TransferReady (working theDisc 0x63 (moving 0 0 3 10)) ∧ TransferReady (working theDisc 0x5B (moving 0 0 3 1)) ∧
      decodeCommand 0x4B = .write ∧ decodeCommand 0x63 = .format ∧ decodeCommand 0x5B = .readId := by
  refine ⟨fun code _ k n h0 h1 =>
      ⟨working_kept code _ rfl ⟨Int.le_trans (by decide) h0, h1⟩, rfl, working_handler _ code _ rfl, rfl⟩,
    ready_read 255 (by decide), fun _ => ⟨fun h => absurd h (by decide), fun _ => ⟨rfl, .write, by decide, fun _ => ?_⟩⟩,
    fun _ => ⟨fun h => absurd h (by decide), fun _ => ⟨rfl, .format, by decide, fun _ => ?_⟩⟩,
    fun _ => ⟨fun h => absurd h (by decide), fun _ => ⟨rfl, .readId, by decide, fun _ => ?_⟩⟩, by decide, by decide, by decide⟩
  · exact ⟨⟨0, 0, 0⟩, 0, sectorOf 0 0, ⟨rfl, rfl, by decide⟩, by decide, by show 128 ≤ 256; decide, by decide,
      Nat.le_refl 256⟩
  · exact ⟨⟨0, 0, 0⟩, 0, rfl, rfl, by decide, by decide, by decide, by decide⟩
  · exact ⟨⟨0, 0, 0⟩, rfl, by decide, by decide⟩

/-- A write command; a tick before the first reset; a reset after it. -/
theorem witness_OnlyTicksStoreAndNoInstructionSetsAttributes :
    (Instr.write 0b01 0x01 0x09 0x21 ≠ .tick ∧ (∀ v, Instr.write 0b01 0x01 0x09 0x21 ≠ .reset v) ∧
      ∃ u, exec (.write 0b01 0x01 0x09 0x21) onDisc = .next u) ∧
      ((∀ v, Instr.tick ≠ .reset v) ∧ ∃ u, exec .tick (State.powerOn #v[theDisc, theDisc]) = .next u) ∧
      onDisc.firstResetDone = true ∧ ∃ u, exec (.reset 0x01) onDisc = .next u :=
  ⟨⟨by decide, fun _ => by simp, _, rfl⟩, ⟨fun _ => by simp, _, rfl⟩, rfl, _, rfl⟩

theorem witness_OnlyTicksRaiseTheInterrupt :
    Instr.rdstat ≠ .tick ∧ ∃ u, exec .rdstat { onDisc with status := 0x18 } = .next u ∧ u.nmi = true :=
  ⟨by decide, _, rfl, by decide⟩

theorem witness_MisuseIsStickyAndParametersAreFixed :
    ({ onDisc with misuse := true, host := [⟨1, .writeReg 0 0x6C⟩] } : State).misuse = true ∧
      ∃ u, step { onDisc with misuse := true, host := [⟨1, .writeReg 0 0x6C⟩] } = .next u := ⟨rfl, _, rfl⟩

theorem witness_CommandBusyStaysSetOverParametersAndSetup :
    (∀ n, (awaiting n).cfg.fdcEnabled = true ∧ (awaiting n).latch.entry = some .read ∧
        commandBusy (awaiting n).status = true) ∧
      (awaiting 0).latch.paramReceived < (awaiting 0).latch.paramExpected ∧
      (awaiting 2).latch.paramReceived < (awaiting 2).latch.paramExpected ∧
      (holds (exec (.param 0x01) (awaiting 0)) (fun u => decide (u.latch.paramReceived < u.latch.paramExpected))) = true ∧
      (∃ u, exec (.param 0x01) (awaiting 2) = .next u) ∧
      Command.read ∈ ([.write, .read, .readDel128, .readDel, .readId, .verify, .format, .seek] : List Command) :=
  ⟨fun _ => ⟨rfl, rfl, by show commandBusy 0x90 = true; decide⟩, by decide, by decide, by decide, ⟨_, rfl⟩, by decide⟩

end Sys2Proof.Tests
end

section
/-! PROOFS. The track's place in its image file (20_memory.md R141): one equation per heads code. -/

namespace Sys2Proof.Machine

/-- A double-length single-sided image: the second head's 80 tracks follow the first head's. -/
theorem trackOffset_of_doubleLength (h t : Nat) : trackOffset 0 h t = (t + h * 80) * Config.trackBytes := by
  have hbranch : trackOffset 0 h t = (t + 80 * h) * Config.trackBytes := if_pos rfl
  rw [hbranch, Nat.mul_comm 80 h]

/-- Heads codes 1 and 2: the heads of a track stand side by side. -/
theorem trackOffset_of_interleaved {hc : Fin 3} (hne : hc ≠ 0) (h t : Nat) :
    trackOffset hc h t = (hc.val * t + h) * Config.trackBytes :=
  if_neg (Fin.val_ne_zero_iff.mpr hne)

/-- Settles O49: by the equation for the heads code's branch; a track takes `Config.trackBytes` = 2560 bytes. -/
theorem trackOffsetFollowsTheHeadsCode : Obligations.TrackOffsetFollowsTheHeadsCode := by
  intro hc h t
  constructor
  · rintro (rfl | rfl)
    · exact trackOffset_of_interleaved (by decide) h t
    · exact trackOffset_of_interleaved (by decide) h t
  · rintro rfl
    exact trackOffset_of_doubleLength h t

end Sys2Proof.Machine
end

section
/-! PROOFS. The drive a latched command byte selects (30_encoding.md R200, R201). -/

namespace Sys2Proof.Machine

/-- Latching copies bits 6 and 7 into the two flags `SelDrive` reads, drive 0's first (R261, R37). -/
theorem selDrive_latchCommand (v : Byte) (s : State) :
    selDrive (latchCommand v s) = if v[6] then some (0 : Fin 2) else if v[7] then some 1 else none := by
  simp [selDrive, latchCommand, mirrorSelect, selectFlags]

/-- R201: the opcode field and the state before play no part in the selection. -/
theorem selDrive_latchCommand_commandByte (ss : BitVec 2) (op : BitVec 6) (s : State) :
    selDrive (latchCommand (commandByte ss op) s) = selectedDrive ss := by
  rw [selDrive_latchCommand, commandByte_bit6, commandByte_bit7]
  rfl

/-- R201's worked bytes are the opcodes of Read Data, Write Data, Seek and Read ID under the select field 01. -/
theorem workedBytes_eq_commandBytes :
    ([0x53, 0x4B, 0x69, 0x5B] : List Byte) = [0x13, 0x0B, 0x29, 0x1B].map (commandByte 0b01) := by
  decide

/-- Settles O5: each select field by the selection of a latched command byte; the worked bytes as command bytes whose
select field is 01. -/
theorem selectBitsChooseTheDrive : Obligations.SelectBitsChooseTheDrive := by
  refine ⟨fun s op => ?selectFields, ?workedOpcodes, fun s v hv => ?workedDrives⟩
  case selectFields =>
    exact ⟨selDrive_latchCommand_commandByte 0b00 op s, selDrive_latchCommand_commandByte 0b01 op s,
      selDrive_latchCommand_commandByte 0b10 op s, selDrive_latchCommand_commandByte 0b11 op s⟩
  case workedOpcodes =>
    exact ⟨decodeCommand_read 0b01, decodeCommand_write 0b01, decodeCommand_seek 0b01, decodeCommand_readId 0b01⟩
  case workedDrives =>
    rw [workedBytes_eq_commandBytes] at hv
    obtain ⟨op, -, rfl⟩ := List.mem_map.mp hv
    exact selDrive_latchCommand_commandByte 0b01 op s

end Sys2Proof.Machine
end

section
/-! PROOFS. The reads of the register window with the controller enabled (40_host_interface.md R251 to R254): the bits a
read's mask clears, one equation per read, and the step that makes a read of an offset without a row. -/

namespace Sys2Proof.Machine

/-! The status bits the reads clear (R252, R253). -/

/-- Clearing the bits of a mask clears each bit the mask sets, whatever the status was. -/
theorem getLsbD_and_not_of_set {m : Byte} {k : Nat} (hm : m.getLsbD k = true) (st : Byte) :
    (st &&& ~~~m).getLsbD k = false := by
  simp [hm]

/-- The mask of a result read is that of `result_full` and `interrupt_request`. -/
theorem statusResultRead_eq (st : Byte) : statusResultRead st = st &&& ~~~(0x10 ||| 0x08) := rfl

/-- The mask of a data access is that of `interrupt_request` and `non_dma_mode`. -/
theorem statusDataAccess_eq (st : Byte) : statusDataAccess st = st &&& ~~~(0x08 ||| 0x04) := rfl

@[simp] theorem resultFull_statusResultRead (st : Byte) : resultFull (statusResultRead st) = false := by
  rw [statusResultRead_eq]
  exact getLsbD_and_not_of_set (by decide) st

@[simp] theorem interruptRequest_statusResultRead (st : Byte) : interruptRequest (statusResultRead st) = false := by
  rw [statusResultRead_eq]
  exact getLsbD_and_not_of_set (by decide) st

@[simp] theorem interruptRequest_statusDataAccess (st : Byte) : interruptRequest (statusDataAccess st) = false := by
  rw [statusDataAccess_eq]
  exact getLsbD_and_not_of_set (by decide) st

@[simp] theorem nonDmaMode_statusDataAccess (st : Byte) : nonDmaMode (statusDataAccess st) = false := by
  rw [statusDataAccess_eq]
  exact getLsbD_and_not_of_set (by decide) st

/-! What each read does to an enabled controller, its frame included. -/

/-- R251. -/
theorem exec_rdstat_of_enabled {s : State} (he : s.cfg.fdcEnabled = true) :
    exec .rdstat s = .next { s with returned := s.status } :=
  congrArg Host.Outcome.next (if_pos he)

/-- R252. -/
theorem exec_rdresult_of_enabled {s : State} (he : s.cfg.fdcEnabled = true) :
    exec .rdresult s =
      .next { s with returned := s.result, status := statusResultRead s.status, result := 0x00 } :=
  congrArg Host.Outcome.next (if_pos he)

/-- R253. -/
theorem exec_rddata_of_enabled {s : State} (he : s.cfg.fdcEnabled = true) :
    exec .rddata s = .next { s with returned := s.data, status := statusDataAccess s.status } :=
  congrArg Host.Outcome.next (if_pos he)

/-- R254. -/
theorem readOther_of_enabled {s : State} (he : s.cfg.fdcEnabled = true) :
    readOther s = { s with returned := 0x00 } :=
  if_pos he

/-- Settles O9: the three reads' equations, each at the register it returns. -/
theorem hostReadsReturnStatusResultAndData : Obligations.HostReadsReturnStatusResultAndData := by
  intro s he
  exact ⟨exec_rdstat_of_enabled he, ⟨_, exec_rdresult_of_enabled he, rfl⟩, ⟨_, exec_rddata_of_enabled he, rfl⟩⟩

/-- Settles O10: the result read's equation; the NMI line is the level of `interrupt_request`, which its mask clears. -/
theorem readingResultClearsItAndItsFlags : Obligations.ReadingResultClearsItAndItsFlags := by
  intro s he
  have hirq := interruptRequest_statusResultRead s.status
  refine ⟨_, exec_rdresult_of_enabled he, ?frame, resultFull_statusResultRead s.status, hirq, hirq⟩
  case frame => rw [statusResultRead_eq]

/-- Settles O11: the data read's equation and the two bits its mask clears. -/
theorem readingDataClearsItsFlags : Obligations.ReadingDataClearsItsFlags := by
  intro s he
  refine ⟨_, exec_rddata_of_enabled he, ?frame, interruptRequest_statusDataAccess s.status,
    nonDmaMode_statusDataAccess s.status⟩
  case frame => rw [statusDataAccess_eq]

/-! A step that makes a call, and the offsets a read has no row for. -/

/-- The next call leaves the queue, sets the cycle and runs as it decodes (R11, log 1). -/
theorem step_of_host_cons {s : State} {c : HostCall} {rest : List HostCall} (hhost : s.host = c :: rest) :
    step s = runCall (decode c.op) exec { s with host := rest, now := c.now } := by
  unfold step
  rw [hhost]
  rfl

/-- Only the reads of offsets 0, 1 and 4 are instructions (R155). -/
theorem decode_readReg_of_ne {off : BitVec 3} (h0 : off ≠ 0) (h1 : off ≠ 1) (h4 : off ≠ 4) :
    decode (.readReg off) = .otherRead off := by
  show decodeRead off = .otherRead off
  rw [decodeRead, if_neg h0, if_neg h1, if_neg h4]

/-- The offsets R254 lists are none of the three that a read has a row for. -/
theorem ne_rows_of_mem_otherReads :
    ∀ off : BitVec 3, off ∈ ([2, 3, 5, 6, 7] : List (BitVec 3)) → off ≠ 0 ∧ off ≠ 1 ∧ off ≠ 4 := by
  decide

/-- Settles O7: the call decodes to a read without a row, whose meaning at an enabled controller is R254's. -/
theorem readsOfOtherOffsetsReturnZero : Obligations.ReadsOfOtherOffsetsReturnZero := by
  intro s now rest off he hoff hhost
  obtain ⟨h0, h1, h4⟩ := ne_rows_of_mem_otherReads off hoff
  rw [step_of_host_cons hhost, decode_readReg_of_ne h0 h1 h4]
  exact congrArg Host.Outcome.next (readOther_of_enabled he)

end Sys2Proof.Machine
end

section
/-! PROOFS. A tick that posts a deferred command error (41_scheduler.md R305 step 4, R311). -/

namespace Sys2Proof.Machine

/-- R305 step 4's exclusion set in the statements' terms. -/
theorem isPending_iff (code : Byte) : isPending code = true ↔ code ∉ ([0x00, 0x0E, 0x20] : List Byte) := by
  simp [isPending, and_assoc]

/-- R311: a pending error is posted in place of the latched row's tick handler, whatever row is latched. -/
theorem tickCommand_of_pending {s : State} (hp : isPending s.xfer.nextInterruptIsErr = true) :
    tickCommand s = postDeferred s.xfer.nextInterruptIsErr s :=
  if_pos hp

/-- Settles O34: a due tick with a quiet motor reaches step 4, which posts the error; the post's status replaces the
`interrupt_request` that step 3 set. -/
theorem tickPostsTheDeferredError : Obligations.TickPostsTheDeferredError := by
  intro s hdue hquiet herr
  have hpending : isPending s.xfer.nextInterruptIsErr = true := (isPending_iff _).mpr herr
  have htick : tick s =
      unloadScheduled (postDeferred s.xfer.nextInterruptIsErr { ticked s with status := s.status ||| 0x08 }) :=
    (tick_of_quiet s hdue hquiet).trans (congrArg unloadScheduled (tickCommand_of_pending hpending))
  exact congrArg Host.Outcome.next htick

end Sys2Proof.Machine
end

section
/-! PROOFS. The encoder and the decoder are inverse to each other (30_encoding.md sections 1 to 4 and 8), and what the
decoder makes of the call at the head of the host's queue. -/

namespace Sys2Proof

/-! The opcode of each row (R200, R210). -/

/-- The opcode field, bits 5 to 0, of a row's command byte; the fallback has none of its own. -/
def opcodeField : Command → BitVec 6
  | .write => 0x0B
  | .read => 0x13
  | .readDel128 => 0x16
  | .readDel => 0x17
  | .readId => 0x1B
  | .verify => 0x1F
  | .format => 0x23
  | .seek => 0x29
  | .readStatus => 0x2C
  | .specify => 0x35
  | .writeSpecial => 0x3A
  | .readSpecial => 0x3D
  | .scan => 0x00
  | .scanDel => 0x04
  | .write128 => 0x0A
  | .writeDel128 => 0x0E
  | .writeDel => 0x0F
  | .read128 => 0x12
  | .verifyDel128 => 0x1E
  | .unknown => 0x00

/-- A byte that selects a row is that row's opcode under the byte's own select bits, but for the fallback's bytes. -/
theorem commandByte_selectField_opcodeField (code : Byte) (h : decodeCommand code ≠ .unknown) :
    commandByte (selectField code) (opcodeField (decodeCommand code)) = code := by
  revert code; decide

/-- R213: Specify's row has one byte, since its mask is 0xFF. -/
theorem eq_specify_of_decodeCommand (code : Byte) (h : decodeCommand code = .specify) : code = 0x35 := by
  revert code; decide

/-- R211, R214: the fallback's bytes. -/
theorem decodeCommand_eq_unknown_iff (code : Byte) : decodeCommand code = .unknown ↔ isFallbackByte code = true := by
  revert code; decide

/-- R210: no byte is matched by two of the rows 1 to 19. -/
theorem commandTable_hits_unique (v : Byte) : (commandTable.dropLast.filter (fun row => row.hits v)).length ≤ 1 := by
  revert v; decide

/-- Settles O3: the two halves by going through the 256 bytes. -/
theorem fallbackTakesExactlyTheRest : Obligations.FallbackTakesExactlyTheRest :=
  fun v => ⟨decodeCommand_eq_unknown_iff v, commandTable_hits_unique v⟩

/-! Decoding a command's bytes. -/

theorem decode_command_of_ok {code : Byte} {ps : List Byte} {i : Instr} (h : decodeCommandBytes code ps = .ok i) :
    decode (.command (code :: ps)) = .instr i := by
  simp only [decode, h]

/-- R212: an unsupported row takes every run of up to five parameter bytes, and no other. -/
theorem decodeUnsupported_eq_ok_iff (c : Command) (make : List Byte → Instr) (ps : List Byte) (i : Instr) :
    decodeUnsupported c make ps = .ok i ↔ unsupportedParamsOk ps = true ∧ make ps = i := by
  unfold decodeUnsupported
  split <;> simp_all

/-- R202: the encoding of a well-formed command decodes to it. -/
theorem decodeCommandBytes_of_encode (i : Instr) (code : Byte) (ps : List Byte) (hwf : i.wf = true)
    (he : encode i = .command (code :: ps)) : decodeCommandBytes code ps = .ok i := by
  cases i with
  | write ss t sec v | read ss t sec v | readdel128 ss t sec | readdel ss t sec v | readid ss t p n
  | verify ss t sec v | format ss t a v b c | seek ss t | rdstatus ss | specify a b c d | wrspecial ss r v
  | rdspecial ss r =>
    obtain ⟨rfl, rfl⟩ := List.cons.inj (HostOp.command.inj he)
    simp only [decodeCommandBytes, selectField_commandByte, decodeCommand_write, decodeCommand_read,
      decodeCommand_readDel128, decodeCommand_readDel, decodeCommand_readId, decodeCommand_verify,
      decodeCommand_format, decodeCommand_seek, decodeCommand_readStatus, decodeCommand_specify,
      decodeCommand_writeSpecial, decodeCommand_readSpecial]
  | scan ss ps | scandel ss ps | write128 ss ps | writedel128 ss ps | writedel ss ps | read128 ss ps
  | verifydel128 ss ps =>
    obtain ⟨rfl, rfl⟩ := List.cons.inj (HostOp.command.inj he)
    have hok : unsupportedParamsOk ps = true := hwf
    simp only [decodeCommandBytes, selectField_commandByte, decodeCommand_scan, decodeCommand_scanDel,
      decodeCommand_write128, decodeCommand_writeDel128, decodeCommand_writeDel, decodeCommand_read128,
      decodeCommand_verifyDel128, decodeUnsupported_eq_ok_iff, hok, and_self]
  | unknown code =>
    obtain ⟨rfl, rfl⟩ := List.cons.inj (HostOp.command.inj he)
    have hrow : decodeCommand code = .unknown := decodeCommand_fallback code hwf
    simp only [decodeCommandBytes, hrow]
  | rdstat | rdresult | rddata | cmd v | param v | reset v | wrdata v | tick => cases he

/-- R202, R204: bytes that decode to a command are its encoding, and it is well formed. -/
theorem encode_of_decodeCommandBytes {code : Byte} {ps : List Byte} {i : Instr}
    (h : decodeCommandBytes code ps = .ok i) : encode i = .command (code :: ps) ∧ i.wf = true := by
  have hcode := commandByte_selectField_opcodeField code
  cases hrow : decodeCommand code with
  | write | read | readDel128 | readDel | readId | verify | format | seek | readStatus | writeSpecial | readSpecial =>
    simp only [decodeCommandBytes, hrow] at h
    rw [hrow] at hcode
    split at h <;> cases h
    exact ⟨congrArg (fun b => HostOp.command (b :: _)) (hcode (by decide)), rfl⟩
  | specify =>
    simp only [decodeCommandBytes, hrow] at h
    obtain rfl := eq_specify_of_decodeCommand code hrow
    split at h <;> cases h
    exact ⟨rfl, rfl⟩
  | scan | scanDel | write128 | writeDel128 | writeDel | read128 | verifyDel128 =>
    simp only [decodeCommandBytes, hrow, decodeUnsupported_eq_ok_iff] at h
    rw [hrow] at hcode
    obtain ⟨hok, rfl⟩ := h
    exact ⟨congrArg (fun b => HostOp.command (b :: ps)) (hcode (by decide)), hok⟩
  | unknown =>
    simp only [decodeCommandBytes, hrow] at h
    split at h <;> cases h
    exact ⟨rfl, (decodeCommand_eq_unknown_iff code).mp hrow⟩

/-! The two kinds of instruction. -/

/-- R202, R250, R305: an instruction is a command, encoded as a command byte and its parameter bytes, or one of the
eight single accesses. -/
inductive InstrKind : Instr → Prop where
  | command (i : Instr) (code : Byte) (ps : List Byte) (h : encode i = .command (code :: ps)) : InstrKind i
  | rdstat : InstrKind .rdstat
  | rdresult : InstrKind .rdresult
  | rddata : InstrKind .rddata
  | cmd (v : Byte) : InstrKind (.cmd v)
  | param (v : Byte) : InstrKind (.param v)
  | reset (v : Byte) : InstrKind (.reset v)
  | wrdata (v : Byte) : InstrKind (.wrdata v)
  | tick : InstrKind .tick

theorem instrKind (i : Instr) : InstrKind i := by
  cases i with
  | rdstat => exact .rdstat
  | rdresult => exact .rdresult
  | rddata => exact .rddata
  | cmd v => exact .cmd v
  | param v => exact .param v
  | reset v => exact .reset v
  | wrdata v => exact .wrdata v
  | tick => exact .tick
  | _ => exact .command _ _ _ rfl

/-- Settles O1: a command by the decoding of its bytes, an access at its offset. -/
theorem decodeOfEncodeIsTheInstruction : Obligations.DecodeOfEncodeIsTheInstruction := by
  intro i hwf
  cases instrKind i with
  | command _ code ps he => rw [he]; exact decode_command_of_ok (decodeCommandBytes_of_encode i code ps hwf he)
  | rdstat | rdresult | rddata | cmd v | param v | reset v | wrdata v | tick => rfl

/-- R155, R251 to R253: a read that is an instruction. -/
theorem encode_of_decodeRead {off : BitVec 3} {i : Instr} (h : decodeRead off = .instr i) :
    encode i = .readReg off ∧ i.wf = true := by
  unfold decodeRead at h
  split at h
  · cases h; subst off; exact ⟨rfl, rfl⟩
  · split at h
    · cases h; subst off; exact ⟨rfl, rfl⟩
    · split at h
      · cases h; subst off; exact ⟨rfl, rfl⟩
      · cases h

/-- R155, R257: a write that is an instruction. -/
theorem encode_of_decodeWrite {off : BitVec 3} {v : Byte} {i : Instr} (h : decodeWrite off v = .instr i) :
    encode i = .writeReg off v ∧ i.wf = true := by
  unfold decodeWrite at h
  split at h
  · cases h; subst off; exact ⟨rfl, rfl⟩
  · split at h
    · cases h; subst off; exact ⟨rfl, rfl⟩
    · split at h
      · cases h; subst off; exact ⟨rfl, rfl⟩
      · split at h
        · cases h; subst off; exact ⟨rfl, rfl⟩
        · cases h

/-- Settles O2: by the kind of host call. -/
theorem encodeOfDecodedIsTheCall : Obligations.EncodeOfDecodedIsTheCall := by
  intro op i h
  cases op with
  | command bytes =>
    cases bytes with
    | nil => cases h
    | cons code ps =>
      simp only [decode] at h
      split at h
      · rename_i j hj; cases h; exact encode_of_decodeCommandBytes hj
      · cases h
  | readReg off => exact encode_of_decodeRead h
  | writeReg off v => exact encode_of_decodeWrite h
  | tick => cases h; exact ⟨rfl, rfl⟩
  | shell op => cases h

/-- Settles O4: each call is written out from the encoding of the instruction it decodes to. -/
theorem writtenOutWordsDecode : Obligations.WrittenOutWordsDecode :=
  ⟨decodeOfEncodeIsTheInstruction (.read 0b01 0x02 0x05 0x21) rfl,
    decodeOfEncodeIsTheInstruction (.write 0b01 0x03 0x00 0x21) rfl,
    decodeOfEncodeIsTheInstruction (.seek 0b01 0x00) rfl,
    decodeOfEncodeIsTheInstruction (.format 0b10 0x00 0x15 0x2A 0x1B 0x00) rfl,
    decodeOfEncodeIsTheInstruction (.specify 0x0D 0x0C 0x0A 0xC8) rfl,
    decodeOfEncodeIsTheInstruction (.unknown 0x75) rfl,
    decodeOfEncodeIsTheInstruction (.reset 0x01) rfl,
    decodeOfEncodeIsTheInstruction .rddata rfl⟩

end Sys2Proof

namespace Sys2Proof.Machine

/-- Settles O6: the call at the head of the queue runs as it decodes. -/
theorem stepRunsTheDecodedInstruction : Obligations.StepRunsTheDecodedInstruction := by
  intro s c rest i hhost hdec _
  rw [step_of_host_cons hhost, hdec]
  rfl

end Sys2Proof.Machine
end

section
/-! PROOFS. The register window's writes (40_host_interface.md R256 to R272) and controller reset (70_reset_and_hazards.md
R700): one equation per write, a command as the sequence of its writes, and the disabled controller. -/

namespace Sys2Proof.Machine

/-! A write of the window (R256, R257, R270). -/

/-- R270: the write's own effect and then the unload scheduling. -/
theorem writeWindow_of_enabled {s : State} (he : s.cfg.fdcEnabled = true) (effect : State → State) :
    writeWindow effect s = unloadScheduled (effect s) := by
  rw [writeWindow, if_pos he, scheduleUnload_eq]

/-- R256. -/
theorem writeWindow_of_disabled {s : State} (he : s.cfg.fdcEnabled = false) (effect : State → State) :
    writeWindow effect s = s := by
  simp [writeWindow, he]

/-- Only the writes of offsets 0, 1, 2 and 4 are instructions (R155). -/
theorem decode_writeReg_of_ne {off : BitVec 3} (v : Byte) (h0 : off ≠ 0) (h1 : off ≠ 1) (h2 : off ≠ 2) (h4 : off ≠ 4) :
    decode (.writeReg off v) = .otherWrite off v := by
  show decodeWrite off v = .otherWrite off v
  rw [decodeWrite, if_neg h0, if_neg h1, if_neg h2, if_neg h4]

/-- The offsets R269 lists are none of the four that a write has a row for. -/
theorem ne_rows_of_mem_otherWrites :
    ∀ off : BitVec 3, off ∈ ([3, 5, 6, 7] : List (BitVec 3)) → off ≠ 0 ∧ off ≠ 1 ∧ off ≠ 2 ∧ off ≠ 4 := by
  decide

/-- Settles O8: the call decodes to a write without a row, whose own effect is nothing. -/
theorem writesOfOtherOffsetsOnlyScheduleTheUnload : Obligations.WritesOfOtherOffsetsOnlyScheduleTheUnload := by
  intro s now rest off v he hoff hhost
  obtain ⟨h0, h1, h2, h4⟩ := ne_rows_of_mem_otherWrites off hoff
  rw [step_of_host_cons hhost, decode_writeReg_of_ne v h0 h1 h2 h4]
  exact congrArg Host.Outcome.next (writeWindow_of_enabled (s := { s with host := rest, now := now }) he _)

/-- Settles O12: the data write's effect, its mask that of the two flags. -/
theorem writingDataLoadsItAndClearsItsFlags : Obligations.WritingDataLoadsItAndClearsItsFlags := by
  intro s v he
  exact congrArg Host.Outcome.next (writeWindow_of_enabled he (dataEffect v))

/-! The command and parameter writes (R260 to R266). -/

/-- R263: a row that takes no parameters runs its setup at once. -/
theorem commandEffect_of_immediate {v : Byte} {s : State}
    (h : paramCount s.cfg.unsupportedParams (decodeCommand v) = 0) :
    commandEffect v s =
      runSetup (decodeCommand v)
        { latchCommand v s with status := statusImmediate (latchCommand v s).status } :=
  if_pos h

/-- R262: a row of parameters waits for them. -/
theorem commandEffect_of_params {v : Byte} {s : State}
    (h : paramCount s.cfg.unsupportedParams (decodeCommand v) ≠ 0) : commandEffect v s = latchCommand v s :=
  if_neg h

/-- Settles O13: the two branches of the command write's effect. -/
theorem commandWriteLatchesTheCommand : Obligations.CommandWriteLatchesTheCommand := by
  intro s v he
  have hexec : exec (.cmd v) s = .next (unloadScheduled (commandEffect v s)) :=
    congrArg Host.Outcome.next (writeWindow_of_enabled he (commandEffect v))
  constructor
  · intro hn; rw [hexec, commandEffect_of_params hn]; rfl
  · intro hn; rw [hexec, commandEffect_of_immediate hn]; rfl

/-- R266: a parameter that is not awaited does nothing. -/
theorem paramEffect_of_not_awaited (v : Byte) {s : State}
    (h : s.latch.entry = none ∨ s.latch.paramExpected ≤ s.latch.paramReceived) : paramEffect v s = s := by
  unfold paramEffect
  split
  · rfl
  · rename_i c hc
    rw [hc] at h
    exact if_neg (by simpa using h)

/-- R264, R266: an awaited parameter's place lies in the buffer. -/
theorem storeParam_eq_set (v : Byte) (s : State) (h : s.latch.paramReceived < 16) :
    storeParam v s =
      { s with
        status := s.status &&& 0xFE
        latch := { s.latch with
          params := s.latch.params.set s.latch.paramReceived v h
          paramReceived := s.latch.paramReceived + 1 } } := by
  have hset : s.latch.params.setIfInBounds s.latch.paramReceived v = s.latch.params.set s.latch.paramReceived v h := by
    simp [Vector.setIfInBounds, Vector.set, Array.setIfInBounds, h]
  unfold storeParam
  rw [hset]
  rfl

/-- R264 and R265 in one: the masks of a parameter write and of the last one. -/
theorem statusLastParam_statusParam (st : Byte) : statusLastParam (statusParam st) = st &&& 0x7E := by
  unfold statusLastParam statusParam
  rw [BitVec.and_assoc]
  rfl

/-- Settles O14: the parameter write by whether it is awaited and the last. -/
theorem parameterWriteStoresCountsAndStarts : Obligations.ParameterWriteStoresCountsAndStarts := by
  intro s v c h he
  refine ⟨fun hc hlt => congrArg Host.Outcome.next ?more, fun hc heq => congrArg Host.Outcome.next ?last,
    fun hn => congrArg Host.Outcome.next ?ignored⟩
  case more => rw [paramWrite_of_more s v c he hc hlt, storeParam_eq_set v s h]
  case last =>
    rw [paramWrite_of_last s v c he hc heq, storeParam_status, statusLastParam_statusParam, storeParam_eq_set v s h]
  case ignored =>
    rw [paramWrite, writeWindow_of_enabled he, paramEffect_of_not_awaited v hn]

/-! A command is the sequence of its writes (R202, R272). -/

/-- An instruction encoded as a command runs as its writes. -/
theorem exec_of_encode {i : Instr} {code : Byte} {ps : List Byte} (he : encode i = .command (code :: ps)) (s : State) :
    exec i s = .next (issueCommand code ps s) := by
  cases i with
  | rdstat | rdresult | rddata | cmd v | param v | reset v | wrdata v | tick => cases he
  | _ => obtain ⟨rfl, rfl⟩ := List.cons.inj (HostOp.command.inj he); rfl

/-- A run of PARAM instructions is the run of their writes. -/
theorem runAll_params (ps : List Byte) (s : State) :
    runAll (ps.map (fun v => .param v)) s = .next (ps.foldl (fun s v => paramWrite v s) s) := by
  induction ps generalizing s with
  | nil => rfl
  | cons v vs ih => exact ih (paramWrite v s)

/-- Settles O16: both sides are the command write followed by the parameter writes. -/
theorem commandIsTheSequenceOfItsWrites : Obligations.CommandIsTheSequenceOfItsWrites := by
  intro s i code ps he
  rw [exec_of_encode he]
  exact (runAll_params ps (commandWrite code s)).symm

/-- A relation between the states before and after that the window's accesses, but for a reset, keep to: what every
instruction but RESET and TICK then keeps to. -/
structure AccessRule (R : State → State → Prop) : Prop where
  trans : ∀ {s t u}, R s t → R t u → R s u
  reads : ∀ s, R s (readStatus s) ∧ R s (readResultReg s) ∧ R s (readData s)
  command : ∀ v s, R s (commandWrite v s)
  param : ∀ v s, R s (paramWrite v s)
  data : ∀ v s, R s (dataWrite v s)

/-- A whole command keeps to the rule, since each of its writes does. -/
theorem AccessRule.issueCommand {R : State → State → Prop} (hR : AccessRule R) (code : Byte) (ps : List Byte)
    (s : State) : R s (Machine.issueCommand code ps s) := by
  suffices h : ∀ t, R s t → R s (ps.foldl (fun s v => paramWrite v s) t) from h _ (hR.command code s)
  induction ps with
  | nil => exact fun t ht => ht
  | cons v vs ih => exact fun t ht => ih _ (hR.trans ht (hR.param v t))

/-- Every instruction keeps to the rule, where RESET and TICK do. -/
theorem AccessRule.exec {R : State → State → Prop} (hR : AccessRule R) {i : Instr} {s u : State}
    (hreset : (∃ v, i = .reset v) → R s (resetWrite s)) (htick : i = .tick → R s (tick s))
    (h : Machine.exec i s = .next u) : R s u := by
  cases instrKind i with
  | command _ code ps he => rw [exec_of_encode he] at h; cases h; exact hR.issueCommand code ps s
  | rdstat => cases h; exact (hR.reads s).1
  | rdresult => cases h; exact (hR.reads s).2.1
  | rddata => cases h; exact (hR.reads s).2.2
  | cmd v => cases h; exact hR.command v s
  | param v => cases h; exact hR.param v s
  | reset v => cases h; exact hreset ⟨v, rfl⟩
  | wrdata v => cases h; exact hR.data v s
  | tick => cases h; exact htick rfl

/-- A rule of every host call: the instructions', and what a step does beside them (log 1, log 4). -/
structure CallRule (R : State → State → Prop) : Prop extends AccessRule R where
  refl : ∀ s, R s s
  accept : ∀ c rest s, R s (Machine.accept c rest s)
  readOther : ∀ s, R s (Machine.readOther s)
  otherWrite : ∀ s, R s (Machine.otherWrite s)
  reset : ∀ s, R s (resetWrite s)
  tick : ∀ s, R s (Machine.tick s)
  shell : ∀ op s, R s (runShell op s)

/-- Every step keeps to the rule. -/
theorem CallRule.step {R : State → State → Prop} (hR : CallRule R) {s u : State} (h : Machine.step s = .next u) :
    R s u := by
  unfold Machine.step at h
  split at h
  · cases h; exact hR.refl s
  · rename_i c rest _
    refine hR.trans (hR.accept c rest s) ?_
    generalize Machine.accept c rest s = t at h ⊢
    unfold runCall at h
    split at h
    · exact hR.toAccessRule.exec (fun _ => hR.reset t) (fun _ => hR.tick t) h
    · cases h; exact hR.readOther t
    · cases h; exact hR.otherWrite t
    · cases h; exact hR.shell _ t
    · cases h

/-! Controller reset (R700, R701, R704). -/

/-- R700: what reset leaves, an unload armed exactly when the motor is loaded. -/
theorem controllerReset_eq (s : State) :
    controllerReset s =
      { s with
        result := 0x00
        status := 0x00
        ctrl := resetControl
        latch := { s.latch with command := 0x00, entry := none, paramExpected := 0, paramReceived := 0 }
        xfer := idleTransfer
        pos := { s.pos with sectorOverRead := false }
        sched := { s.sched with
          trigger := if s.sched.motorLoaded = true then some (s.now + 4000000) else none
          unloadPending := s.sched.motorLoaded }
        disc := if s.firstResetDone = true then s.disc else #v[emptyDisc, emptyDisc]
        firstResetDone := true } := by
  obtain ⟨_, _, _, _, _, _, _, ⟨_, _, motorLoaded, _⟩, _, _, firstResetDone, _⟩ := s
  cases motorLoaded <;> cases firstResetDone <;> rfl

/-- The unload that reset leaves armed or needless is not scheduled again (R270, C5). -/
theorem resetWrite_of_enabled {s : State} (he : s.cfg.fdcEnabled = true) : resetWrite s = controllerReset s := by
  rw [resetWrite, writeWindow_of_enabled he]
  refine if_neg fun ⟨hmotor, htrigger⟩ => ?_
  rw [controllerReset_eq] at hmotor htrigger
  rw [if_pos hmotor] at htrigger
  cases htrigger

/-- Settles O17: reset's equation. -/
theorem resetLeavesWhatTheSpecLists : Obligations.ResetLeavesWhatTheSpecLists := by
  intro s v he
  refine congrArg Host.Outcome.next ?_
  rw [resetWrite_of_enabled he, controllerReset_eq]
  rfl

/-- Settles O18: the power-on state has the motor unloaded and no reset done. -/
theorem firstResetGivesTheResetState : Obligations.FirstResetGivesTheResetState := by
  intro discs v
  refine congrArg Host.Outcome.next ?_
  rw [resetWrite_of_enabled rfl, controllerReset_eq]
  rfl

/-! The disabled controller (R256). -/

/-- R256: every read returns 0xFF and changes nothing else. -/
theorem reads_of_disabled {s : State} (he : s.cfg.fdcEnabled = false) :
    readStatus s = { s with returned := 0xFF } ∧ readResultReg s = { s with returned := 0xFF } ∧
      readData s = { s with returned := 0xFF } ∧ readOther s = { s with returned := 0xFF } := by
  simp [readStatus, readResultReg, readData, readOther, disabledRead, returning, he]

/-- R256: every instruction but TICK. -/
theorem exec_of_disabled {s : State} (he : s.cfg.fdcEnabled = false) {i : Instr} (hi : i ≠ .tick) :
    exec i s = .next (if i = .rdstat ∨ i = .rdresult ∨ i = .rddata then { s with returned := 0xFF } else s) := by
  obtain ⟨hstat, hresult, hdata, -⟩ := reads_of_disabled he
  cases instrKind i with
  | command _ code ps h =>
    have hne : ¬ (i = .rdstat ∨ i = .rdresult ∨ i = .rddata) := by rintro (rfl | rfl | rfl) <;> cases h
    rw [exec_of_encode h, issueCommand_disabled code ps s he, if_neg hne]
  | rdstat => exact congrArg Host.Outcome.next hstat
  | rdresult => exact congrArg Host.Outcome.next hresult
  | rddata => exact congrArg Host.Outcome.next hdata
  | cmd v | param v | reset v | wrdata v => exact congrArg Host.Outcome.next (writeWindow_of_disabled he _)
  | tick => exact absurd rfl hi

/-- Settles O15: the instructions' clause, and for a host call of each offset that clause or the access without a row. -/
theorem disabledControllerReadsFFAndIgnoresWrites : Obligations.DisabledControllerReadsFFAndIgnoresWrites := by
  intro s he
  refine ⟨fun i hi => exec_of_disabled he hi, fun now rest off hhost => ?reads, fun now rest off v hhost => ?writes⟩
  case reads =>
    have hd : ({ s with host := rest, now := now } : State).cfg.fdcEnabled = false := he
    obtain ⟨hstat, hresult, hdata, hother⟩ := reads_of_disabled hd
    rw [step_of_host_cons hhost]
    show runCall (decodeRead off) exec _ = _
    unfold decodeRead
    split
    · exact congrArg Host.Outcome.next hstat
    · split
      · exact congrArg Host.Outcome.next hresult
      · split
        · exact congrArg Host.Outcome.next hdata
        · exact congrArg Host.Outcome.next hother
  case writes =>
    have hd : ({ s with host := rest, now := now } : State).cfg.fdcEnabled = false := he
    rw [step_of_host_cons hhost]
    show runCall (decodeWrite off v) exec _ = _
    unfold decodeWrite
    repeat' split
    all_goals exact congrArg Host.Outcome.next (writeWindow_of_disabled hd _)

end Sys2Proof.Machine
end

section
/-! PROOFS. Every step keeps a well-kept state: the setups, the window's writes, the tick and the shell one by one. -/

namespace Sys2Proof.Machine

/-! Updates that `Kept` sees in one part alone. -/

/-- New status bits, legal ones (R31), and whatever `Kept` does not look at. -/
theorem Kept.withStatus {s : State} (h : Kept s) (st result data returned : Byte) (hst : st &&& 0x63 = 0x00) :
    Kept { s with status := st, result := result, data := data, returned := returned } :=
  Kept.congr s _ h hst rfl rfl rfl rfl rfl h.count rfl rfl rfl

/-- New control registers whose select bits are mirrored (R38), and a new position. -/
theorem Kept.withCtrl {s : State} (h : Kept s) (c : Control) (p : Positioning)
    (hc : c.driveOut.getLsbD 6 = c.select[0] ∧ c.driveOut.getLsbD 7 = c.select[1]) :
    Kept { s with ctrl := c, pos := p } :=
  ⟨h.status, hc, h.latch, h.error, h.count, h.sched, h.disc, h.files⟩

/-- New transfer state with the same deferred error and a count in range (R50). -/
theorem Kept.withXfer {s : State} (h : Kept s) (x : Transfer)
    (herr : x.nextInterruptIsErr = s.xfer.nextInterruptIsErr) (hcount : -1 ≤ x.sectorsToGo ∧ x.sectorsToGo ≤ 255) :
    Kept { s with xfer := x } :=
  Kept.congr s _ h h.status rfl rfl rfl rfl herr hcount rfl rfl rfl

/-! The setups (R210). -/

/-- A setup that goes on from a sector found with `next` keeps the state when `next` does. -/
theorem sectorSetup_then_kept (t sec v : Byte) (nw : Bool) {s : State} (h : Kept s) {next : State → State}
    (hnext : ∀ u, Kept u → Kept (next u)) :
    Kept (match sectorSetup t sec v nw s with
      | .ok s1 => next s1
      | .error s1 => s1) := by
  have hsetup := sectorSetup_kept t sec v nw s h
  cases hr : sectorSetup t sec v nw s with
  | ok u => rw [hr] at hsetup; exact hnext u hsetup
  | error u => rw [hr] at hsetup; exact hsetup

theorem readSetup_kept (t sec v : Byte) {s : State} (h : Kept s) : Kept (readSetup t sec v s) :=
  sectorSetup_then_kept t sec v false h (fun _ hu => arm_kept _ _ hu)

theorem writeDataSetup_kept {s : State} (h : Kept s) : Kept (writeDataSetup s) :=
  sectorSetup_then_kept _ _ _ true h (fun _ hu => arm_kept _ _ (hu.withXfer _ rfl hu.count))

theorem verifySetup_kept {s : State} (h : Kept s) : Kept (verifySetup s) :=
  sectorSetup_then_kept _ _ _ false h (fun _ hu => arm_kept _ _ (hu.withStatus _ _ _ _ hu.status))

/-- R205: Read ID's count is in range. -/
theorem idFieldCount_le (n : Byte) : idFieldCount n ≤ 255 := by
  have := n.isLt
  unfold idFieldCount
  split <;> omega

theorem readIdSetup_kept {s : State} (h : Kept s) : Kept (readIdSetup s) := by
  unfold readIdSetup
  split
  · exact raiseError_kept _ _ (by simp) (startWork_kept s h)
  · have hr := resolveTrack_kept s.latch.params[0] _ (startWork_kept s h)
    unfold readIdOnDrive
    split
    · exact raiseError_kept _ _ (by simp) hr
    · rename_i p _
      have hn := idFieldCount_le s.latch.params[2]
      exact arm_kept _ _ (onTrack_kept _ _ ((headTo_kept p _ hr).withXfer _ rfl
        ⟨by show -1 ≤ ((idFieldCount _ : Nat) : Int); omega, by show ((idFieldCount _ : Nat) : Int) ≤ 255; omega⟩))

theorem formatSetup_kept {s : State} (h : Kept s) : Kept (formatSetup s) := by
  have h0 := startWork_kept s h
  unfold formatSetup
  split
  · exact raiseError_kept _ _ (by simp) h0
  · split
    · exact raiseError_kept _ _ (by simp) h0
    · split
      · exact raiseError_kept _ _ (by simp) h0
      · have hr := resolveTrack_kept s.latch.params[0] _ h0
        unfold formatOnDrive formatOnTrack
        split
        · exact raiseError_kept _ _ (by simp) hr
        · exact arm_kept _ _ ((setLogicalSectors_kept _ _ 10 hr).withXfer _ rfl
            ⟨by show (-1 : Int) ≤ 10; decide, by show (10 : Int) ≤ 255; decide⟩)

theorem seekSetup_kept {s : State} (h : Kept s) : Kept (seekSetup s) := by
  have h0 := startWork_kept s h
  unfold seekSetup
  split
  · exact raiseError_kept _ _ (by simp) h0
  · exact arm_kept _ _ (h0.withCtrl _ _ h.select)

theorem specifySetup_kept {s : State} (h : Kept s) : Kept (specifySetup s) := by
  unfold specifySetup
  split
  · exact h.withCtrl _ s.pos h.select
  · exact h.withCtrl _ s.pos h.select
  · exact h

/-- R530, R531: a special register write leaves the select bits mirrored. -/
theorem writeSpecialReg_select {v : Byte} {c : Control}
    (hc : c.driveOut.getLsbD 6 = c.select[0] ∧ c.driveOut.getLsbD 7 = c.select[1]) (reg : SpecialReg) :
    (writeSpecialReg v c reg).driveOut.getLsbD 6 = (writeSpecialReg v c reg).select[0] ∧
      (writeSpecialReg v c reg).driveOut.getLsbD 7 = (writeSpecialReg v c reg).select[1] := by
  cases reg with
  | driveOut => exact ⟨rfl, rfl⟩
  | _ => exact hc

theorem writeSpecialSetup_kept {s : State} (h : Kept s) : Kept (writeSpecialSetup s) := by
  unfold writeSpecialSetup specialWrite
  split
  · rename_i reg _; exact h.withCtrl _ _ (writeSpecialReg_select h.select reg)
  · exact h

/-- A row's setup keeps the state. -/
theorem runSetup_kept (c : Command) {s : State} (h : Kept s) : Kept (runSetup c s) := by
  cases c with
  | write => exact writeDataSetup_kept h
  | read | readDel128 | readDel => exact readSetup_kept _ _ _ h
  | readId => exact readIdSetup_kept h
  | verify => exact verifySetup_kept h
  | format => exact formatSetup_kept h
  | seek => exact seekSetup_kept h
  | readStatus => exact Kept.congr s _ h h.status rfl rfl rfl rfl rfl h.count rfl rfl rfl
  | specify => exact specifySetup_kept h
  | writeSpecial => exact writeSpecialSetup_kept h
  | readSpecial => exact h.withStatus _ _ _ _ h.status
  | scan | scanDel | write128 | writeDel128 | writeDel | read128 | verifyDel128 | unknown => exact h

/-! The window (R250 to R274). -/

theorem writeWindow_kept {effect : State → State} {s : State} (h : Kept s) (heffect : Kept (effect s)) :
    Kept (writeWindow effect s) := by
  unfold writeWindow
  split
  · exact scheduleUnload_kept _ heffect
  · exact h

theorem reads_kept {s : State} (h : Kept s) :
    Kept (readStatus s) ∧ Kept (readResultReg s) ∧ Kept (readData s) ∧ Kept (readOther s) := by
  have hdisabled : Kept (disabledRead s) := h.withStatus _ _ _ _ h.status
  refine ⟨?status, ?result, ?data, ?other⟩
  case status => unfold readStatus; split; exacts [h.withStatus _ _ _ _ h.status, hdisabled]
  case result =>
    unfold readResultReg; split; exacts [h.withStatus _ _ _ _ (statusReserved_and _ _ h.status), hdisabled]
  case data => unfold readData; split; exacts [h.withStatus _ _ _ _ (statusReserved_and _ _ h.status), hdisabled]
  case other => unfold readOther; split; exacts [h.withStatus _ _ _ _ h.status, hdisabled]

/-- R261: the select bits copied into the output port are its bits 6 and 7. -/
theorem mirrorSelect_select (v : Byte) (c : Control) :
    (mirrorSelect v c).driveOut.getLsbD 6 = (mirrorSelect v c).select[0] ∧
      (mirrorSelect v c).driveOut.getLsbD 7 = (mirrorSelect v c).select[1] := by
  simp [mirrorSelect, selectFlags]

theorem latchCommand_kept (v : Byte) {s : State} (h : Kept s) : Kept (latchCommand v s) :=
  ⟨statusReserved_or _ _ h.status rfl, mirrorSelect_select v s.ctrl, ⟨rfl, rfl, Nat.zero_le _⟩, h.error, h.count,
    h.sched, h.disc, h.files⟩

theorem commandWrite_kept (v : Byte) {s : State} (h : Kept s) : Kept (commandWrite v s) := by
  refine writeWindow_kept h ?_
  have hl := latchCommand_kept v h
  unfold commandEffect
  dsimp only
  split
  · exact runSetup_kept _ (hl.withStatus _ _ _ _ (statusReserved_and _ _ hl.status))
  · exact hl

/-- R264: an awaited parameter is stored and counted. -/
theorem storeParam_kept (v : Byte) {s : State} {c : Command} (h : Kept s) (hc : s.latch.entry = some c)
    (hlt : s.latch.paramReceived < s.latch.paramExpected) : Kept (storeParam v s) := by
  refine ⟨statusReserved_and _ _ h.status, h.select, ?_, h.error, h.count, h.sched, h.disc, h.files⟩
  have hlatch := h.latch
  simp only [LatchKept, storeParam_latch, storeParam_cfg, hc] at hlatch ⊢
  obtain ⟨hrow, hcount, -⟩ := hlatch
  exact ⟨hrow, hcount, hlt⟩

theorem paramWrite_kept (v : Byte) {s : State} (h : Kept s) : Kept (paramWrite v s) := by
  refine writeWindow_kept h ?_
  unfold paramEffect
  split
  · exact h
  · rename_i c hc
    split
    · rename_i hlt
      have hs := storeParam_kept v h hc hlt
      dsimp only
      split
      · exact runSetup_kept c (hs.withStatus _ _ _ _ (statusReserved_and _ _ hs.status))
      · exact hs
    · exact h

theorem dataWrite_kept (v : Byte) {s : State} (h : Kept s) : Kept (dataWrite v s) :=
  writeWindow_kept h (h.withStatus _ _ _ _ (statusReserved_and _ _ h.status))

/-- Emptied drives are well kept (R117). -/
theorem discKept_emptyDiscs {s : State} (h : s.disc = #v[emptyDisc, emptyDisc]) : DiscKept s := by
  refine discKept_of_discs s fun d => ?_
  rw [h]
  match d with
  | 0 => exact emptyDisc_kept
  | 1 => exact emptyDisc_kept

/-- R80: the control registers, the transfer state and the status after reset are legal. -/
theorem resetControl_select :
    resetControl.driveOut.getLsbD 6 = resetControl.select[0] ∧
      resetControl.driveOut.getLsbD 7 = resetControl.select[1] := by decide

theorem idleTransfer_count : -1 ≤ idleTransfer.sectorsToGo ∧ idleTransfer.sectorsToGo ≤ 255 := by decide

theorem zero_statusReserved : (0x00 : Byte) &&& statusReserved = 0x00 := by decide

/-- R700: reset. -/
theorem controllerReset_kept {s : State} (h : Kept s) : Kept (controllerReset s) := by
  rw [controllerReset_eq]
  refine ⟨zero_statusReserved, resetControl_select, ⟨rfl, rfl⟩, .inl rfl, idleTransfer_count,
    ⟨fun hm => ⟨?_, hm⟩, h.sched.2⟩, ?_, h.files⟩
  · have hm' : s.sched.motorLoaded = true := hm
    simp [hm']
  · by_cases hf : s.firstResetDone = true
    · intro a
      rw [trackAt_congr s _ a (if_pos hf)]
      exact h.disc a
    · exact discKept_emptyDiscs (if_neg hf)

theorem resetWrite_kept {s : State} (h : Kept s) : Kept (resetWrite s) :=
  writeWindow_kept h (controllerReset_kept h)

/-- Settles O52: reset leaves no deferred error, no count and empty drives. -/
theorem resetStateIsKept : Obligations.ResetStateIsKept := by
  refine ⟨zero_statusReserved, resetControl_select, ⟨rfl, rfl⟩, .inl rfl, idleTransfer_count,
    ⟨fun hu => (Bool.false_ne_true hu).elim, fun hm => (Bool.false_ne_true hm).elim⟩, discKept_emptyDiscs rfl,
    fun d => ?_⟩
  obtain ⟨hfile, hwf⟩ := reset_memory_wf.2 d
  rw [hfile]
  exact hwf

/-! The tick handlers (R210). -/

/-- One byte on, the tick's status shown (R354, R402, R422, R452). -/
theorem Kept.byteStatus {s : State} (h : Kept s) (x : Transfer) (data result : Byte)
    (herr : x.nextInterruptIsErr = s.xfer.nextInterruptIsErr) (hcount : x.sectorsToGo = s.xfer.sectorsToGo) :
    Kept { s with status := statusByte, data := data, result := result, xfer := x } :=
  (h.withStatus statusByte result data s.returned rfl).withXfer x herr (by rw [hcount]; exact h.count)

/-- The final tick, and the ticks of Verify and Seek (R355, R470, R480). -/
theorem Kept.over {s : State} (h : Kept s) (result : Byte) :
    Kept { s with status := statusOver, result := result } :=
  h.withStatus statusOver result s.data s.returned rfl

theorem readTick_kept {s : State} (h : Kept s) : Kept (readTick s) := by
  unfold readTick
  split
  · exact h.over _
  · rename_i hgo
    have hd : Kept (deliverByte s) := h.byteStatus _ _ _ rfl rfl
    dsimp only
    split
    · exact arm_kept _ _ hd
    · have hp := passSector_kept _ hd (Int.not_lt.mp hgo)
      split
      · exact nextSector_kept _ hp
      · exact endTransfer_kept _ hp

/-- R402, R422: the first tick of Write Data and Format. -/
theorem requestFirstByte_kept {s : State} (h : Kept s) : Kept (requestFirstByte s) :=
  arm_kept _ _ (h.byteStatus _ _ _ rfl rfl)

theorem requestByte_kept (delay : Nat) {s : State} (h : Kept s) : Kept (requestByte delay s) :=
  arm_kept _ _ (h.byteStatus _ _ _ rfl rfl)

theorem nextByte_kept {s : State} (h : Kept s) : Kept (nextByte s) := h.withXfer _ rfl h.count

theorem writeTick_kept {s : State} (h : Kept s) : Kept (writeTick s) := by
  unfold writeTick
  split
  · exact h.over _
  · rename_i hgo
    split
    · exact requestFirstByte_kept h
    · have hb := nextByte_kept (storeData_kept s h)
      dsimp only
      split
      · exact requestByte_kept _ hb
      · have hp := passSector_kept _ hb (by simpa using hgo)
        split
        · exact nextSector_kept _ (hp.byteStatus _ _ _ rfl rfl)
        · exact finishWithWriteback_kept _ hp

/-- R422: the next sector by index, while some are still to go. -/
theorem nextIndex_kept {s : State} (h : Kept s) (hgo : 0 ≤ s.xfer.sectorsToGo) : Kept (nextIndex s) := by
  have hc := h.count.2
  exact h.withXfer _ rfl ⟨by show -1 ≤ s.xfer.sectorsToGo - 1; omega, by show s.xfer.sectorsToGo - 1 ≤ 255; omega⟩

theorem formatTick_kept {s : State} (h : Kept s) : Kept (formatTick s) := by
  unfold formatTick
  split
  · exact h.over _
  · rename_i hgo
    split
    · exact requestFirstByte_kept h
    · have hb := nextByte_kept h
      dsimp only
      split
      · exact requestByte_kept _ hb
      · have hi := nextIndex_kept (fillCurrent_kept _ hb) (by simpa using hgo)
        split
        · exact requestByte_kept _ hi
        · exact finishWithWriteback_kept _ hi

theorem readIdTick_kept {s : State} (h : Kept s) : Kept (readIdTick s) := by
  unfold readIdTick
  split
  · exact h.over _
  · rename_i hgo
    have hd : Kept (deliverIdByte s) := h.byteStatus _ _ s.result rfl rfl
    dsimp only
    split
    · exact arm_kept _ _ hd
    · have hc := h.count.2
      have hp : Kept (passIdField (readIdIndex s) (trackAt s (workTrack s)).nSectors (deliverIdByte s)) :=
        Kept.congr _ _ hd hd.status rfl rfl rfl rfl rfl
          ⟨by show -1 ≤ s.xfer.sectorsToGo - 1; omega, by show s.xfer.sectorsToGo - 1 ≤ 255; omega⟩ rfl rfl rfl
      split
      · exact arm_kept _ _ hp
      · exact endTransfer_kept _ (hp.withStatus _ _ _ _ hp.status)

/-- A row's tick handler keeps the state. -/
theorem runTick_kept (c : Command) {s : State} (h : Kept s) : Kept (runTick c s) := by
  cases c with
  | write => exact writeTick_kept h
  | read | readDel128 | readDel => exact readTick_kept h
  | readId => exact readIdTick_kept h
  | verify | seek => exact h.over 0x00
  | format => exact formatTick_kept h
  | readStatus | specify | writeSpecial | readSpecial | scan | scanDel | write128 | writeDel128 | writeDel | read128
  | verifyDel128 | unknown => exact h

/-! The tick (R305). -/

/-- R320: a tick that goes on to the command finds no unload pending, since the motor model would take it. -/
theorem unloadPending_of_no_work {s : State} (h : SchedKept s)
    (hw : (s.cfg.motorModelEnabled && motorHasWork s) = false) : s.sched.unloadPending = false := by
  by_contra hu
  have hu' : s.sched.unloadPending = true := by simpa using hu
  have hm : s.cfg.motorModelEnabled = true := h.2 (h.1 hu').2
  simp [hm, motorHasWork, hu'] at hw

/-- R310, R312: with an unload pending no error is deferred. -/
theorem noError_of_unloadPending {s : State} (h : ErrorKept s) (hu : s.sched.unloadPending = true) :
    s.xfer.nextInterruptIsErr = 0x00 := by
  rcases h with h | ⟨-, -, hu'⟩
  · exact h
  · rw [hu] at hu'; cases hu'

/-- R310, R600: a deferred error is one that a tick posts. -/
theorem isPending_of_errorKept {s : State} (h : ErrorKept s) (he : s.xfer.nextInterruptIsErr ≠ 0x00) :
    isPending s.xfer.nextInterruptIsErr = true := by
  rcases h with h | ⟨h, -⟩
  · exact absurd h he
  · revert h
    generalize s.xfer.nextInterruptIsErr = e
    revert e
    decide

/-- R323: the unload, with no error deferred. -/
theorem unloadHead_kept {s : State} (h : Kept s) (trigger : Option Nat) (misuse : Bool) (draws : Nat)
    (herr : s.xfer.nextInterruptIsErr = 0x00) :
    Kept (unloadHead { s with sched := { s.sched with trigger := trigger }, misuse := misuse, draws := draws }) := by
  refine ⟨h.status, ?_, h.latch, .inl herr, h.count,
    ⟨fun hu => (Bool.false_ne_true hu).elim, fun hm => (Bool.false_ne_true hm).elim⟩, h.disc, h.files⟩
  simp [SelectKept, unloadHead]

/-- Any event armed in place of the one that a tick cleared (R321, R322). -/
theorem Kept.rearmed {s : State} (h : Kept s) (sched : Scheduler) (misuse : Bool) (draws delay : Nat)
    (hmotor : sched.motorLoaded = true → s.cfg.motorModelEnabled = true) :
    Kept (arm delay { s with sched := sched, misuse := misuse, draws := draws }) := by
  refine ⟨h.status, h.select, h.latch, ?_, h.count, ⟨fun hu => (Bool.false_ne_true hu).elim, hmotor⟩, h.disc, h.files⟩
  rcases h.error with herr | ⟨herr, -⟩
  · exact .inl herr
  · exact .inr ⟨herr, rfl, rfl⟩

/-- R320 to R323: a tick's motor step. -/
theorem motorStep_kept {s : State} (h : Kept s)
    (hw : (s.cfg.motorModelEnabled && motorHasWork s) = true) : Kept (motorStep (enterTick s)) := by
  obtain ⟨hmodel, hwork⟩ := Bool.and_eq_true_iff.mp hw
  unfold motorStep
  split
  · rename_i hu; exact unloadHead_kept h _ _ _ (noError_of_unloadPending h.error hu)
  · rename_i hu
    split
    · split
      · exact h.rearmed _ _ _ _ (fun _ => hmodel)
      · exact h.rearmed _ _ _ _ (fun _ => hmodel)
    · rename_i hd
      have hu' : s.sched.unloadPending = false := by simpa using hu
      have hd' : selDrive s = none := hd
      simp [motorHasWork, hu', hd'] at hwork

/-- R305 step 3: a tick that goes on to the command, with neither an unload pending nor an error deferred. -/
theorem interrupted_kept {s : State} (h : Kept s) (hu : s.sched.unloadPending = false)
    (herr : s.xfer.nextInterruptIsErr = 0x00) :
    Kept { enterTick s with status := statusInterrupt (enterTick s).status } :=
  ⟨statusReserved_or s.status 0x08 h.status rfl, h.select, h.latch, .inl herr, h.count,
    ⟨fun hc => (Bool.false_ne_true (hu.symm.trans hc)).elim, h.sched.2⟩, h.disc, h.files⟩

/-- R305 step 4: with no code pending no error is deferred. -/
theorem noError_of_not_pending {s : State} (h : ErrorKept s) (hp : ¬ isPending s.xfer.nextInterruptIsErr = true) :
    s.xfer.nextInterruptIsErr = 0x00 := by
  by_contra he
  exact hp (isPending_of_errorKept h he)

/-- R305 steps 4 and 5: a tick's command, with no unload pending. -/
theorem tickCommand_kept {s : State} (h : Kept s) (hu : s.sched.unloadPending = false) :
    Kept (tickCommand { enterTick s with status := statusInterrupt (enterTick s).status }) := by
  unfold tickCommand
  split
  · exact ⟨by show (0x18 : Byte) &&& 0x63 = 0x00; decide, h.select, h.latch, .inl rfl, h.count,
      ⟨fun hc => (Bool.false_ne_true (hu.symm.trans hc)).elim, h.sched.2⟩, h.disc, h.files⟩
  · rename_i hp
    have hk := interrupted_kept h hu (noError_of_not_pending h.error hp)
    split
    · exact runTick_kept _ hk
    · exact hk

theorem tick_kept {s : State} (h : Kept s) : Kept (tick s) := by
  unfold tick
  dsimp only
  split
  · rename_i hw; exact motorStep_kept h hw
  · rename_i hw
    have hquiet : ¬ (s.cfg.motorModelEnabled && motorHasWork s) = true := hw
    exact scheduleUnload_kept _
      (tickCommand_kept h (unloadPending_of_no_work h.sched (Bool.eq_false_iff.mpr hquiet)))

/-! The shell (R720). -/

theorem mount_kept (d : Fin 2) {disc : Disc} {file : File} {s : State} (h : Kept s) (hdisc : disc.Kept)
    (hfile : file.wf = true) : Kept (mount d disc file s) :=
  ⟨h.status, h.select, h.latch, h.error, h.count, h.sched, discKept_set s d disc hdisc h.disc,
    filesKept_set s d file hfile h.files⟩

theorem runShell_kept (op : ShellOp) {s : State} (h : Kept s) : Kept (runShell op s) := by
  have hempty : ∀ d, Kept (unmount d s) := fun d => mount_kept d h emptyDisc_kept rfl
  cases op with
  | loadSSD d bytes path w => exact mount_kept d h (ssdDisc_kept _ _ _) (File.ofBytes_wf _)
  | loadDSD d bytes path w => exact mount_kept d h (dsdDisc_kept _ _ _) (File.ofBytes_wf _)
  | loadFSD d bytes path =>
    unfold runShell
    dsimp only
    split
    · rename_i disc hd; exact mount_kept d h (fsdDisc_kept _ _ _ hd) (File.ofBytes_wf _)
    · exact hempty d
  | eject d => exact hempty d
  | setWritable d w =>
    have hd : ({ s.disc[d] with writable := w } : Disc).Kept := fun head t => h.disc ⟨d, head, t⟩
    exact ⟨h.status, h.select, h.latch, h.error, h.count, h.sched, discKept_set s d _ hd h.disc, h.files⟩

/-- A step from a well-kept state answers a well-kept one, as a rule of every host call. -/
theorem kept_callRule : CallRule (fun s u => Kept s → Kept u) where
  trans h1 h2 h := h2 (h1 h)
  reads _ := ⟨fun h => (reads_kept h).1, fun h => (reads_kept h).2.1, fun h => (reads_kept h).2.2.1⟩
  command v _ := commandWrite_kept v
  param v _ := paramWrite_kept v
  data v _ := dataWrite_kept v
  refl _ h := h
  accept _ _ _ h := Kept.congr _ _ h h.status rfl rfl rfl rfl rfl h.count rfl rfl rfl
  readOther _ h := (reads_kept h).2.2.2
  otherWrite _ h := writeWindow_kept h h
  reset _ := resetWrite_kept
  tick _ := tick_kept
  shell op _ := runShell_kept op

/-- Settles O51: every host call keeps the state. -/
theorem everyStepKeepsTheState : Obligations.EveryStepKeepsTheState :=
  fun _ _ h hstep => kept_callRule.step hstep h

end Sys2Proof.Machine
end

section
/-! PROOFS. What the setups and the tick handlers touch, what a status they leave, and the rules of every instruction that
follow: what stores, what raises the interrupt, what misuse and the parameters do. -/

namespace Sys2Proof.Machine

/-! What the shared steps touch. -/

/-- What follows a sector setup, by what the setup can do (R350): it raises one of the four codes, or goes on from the
sector found. -/
theorem sectorSetup_then_cases {P : State → Prop} (t sec v : Byte) (nw : Bool) (s : State) (next : State → State)
    (herror : ∀ code pos xfer, code ∈ [errNotReady, errWriteProtect, errSectorNotFound, errNotPresent] →
      P (raiseError code { s with status := statusWorking, pos := pos, xfer := xfer }))
    (hfound : ∀ d p r, findTrack (resolveTrack t s) d (selHead s) t = some p →
      (trackAt s ⟨d, selHead s, p⟩).readable = true →
      findSector (trackAt s ⟨d, selHead s, p⟩) sec (resolveTrack t s).pos.positionInTrack = some r →
      P (next (beginSector r (onTrack ⟨d, selHead s, p⟩
        (takeOperands t sec v (headTo p (resolveTrack t (startWork s)))))))) :
    P (match sectorSetup t sec v nw s with
      | .ok s1 => next s1
      | .error s1 => s1) := by
  rcases sectorSetup_cases t sec v nw s with ⟨code, u, he, hcode, hu, -⟩ | ⟨d, p, r, -, -, hp, hr, hs, he⟩
  · rw [he, hu]; exact herror code u.pos u.xfer hcode
  · rw [he]; exact hfound d p r hp hr hs

/-- Everything a setup can touch. -/
def SetupTouches (s u : State) : Prop :=
  u = { s with
    status := u.status, result := u.result, ctrl := u.ctrl, xfer := u.xfer, pos := u.pos, sched := u.sched
    disc := u.disc }

/-- Every row's setup touches no more: not the latch, not the files, not misuse, not the parameters. -/
theorem runSetup_touches (c : Command) (s : State) : SetupTouches s (runSetup c s) := by
  cases c with
  | write | read | readDel128 | readDel | verify =>
    exact sectorSetup_then_cases (P := SetupTouches s) _ _ _ _ _ _ (fun _ _ _ _ => rfl) (fun _ _ _ _ _ _ => rfl)
  | readId =>
    show SetupTouches s (readIdSetup s)
    unfold readIdSetup
    split
    · rfl
    · unfold readIdOnDrive; split <;> rfl
  | format =>
    show SetupTouches s (formatSetup s)
    unfold formatSetup
    split
    · rfl
    · split
      · rfl
      · split
        · rfl
        · unfold formatOnDrive formatOnTrack; split <;> rfl
  | seek => show SetupTouches s (seekSetup s); unfold seekSetup; split <;> rfl
  | specify => show SetupTouches s (specifySetup s); unfold specifySetup; split <;> rfl
  | writeSpecial =>
    show SetupTouches s (writeSpecialSetup s); unfold writeSpecialSetup specialWrite; split <;> rfl
  | readStatus | readSpecial | scan | scanDel | write128 | writeDel128 | writeDel | read128 | verifyDel128
  | unknown => rfl

@[simp] theorem runSetup_latch (c : Command) (s : State) : (runSetup c s).latch = s.latch := by
  rw [runSetup_touches c s]
@[simp] theorem runSetup_backing (c : Command) (s : State) : (runSetup c s).backing = s.backing := by
  rw [runSetup_touches c s]
@[simp] theorem runSetup_misuse (c : Command) (s : State) : (runSetup c s).misuse = s.misuse := by
  rw [runSetup_touches c s]
@[simp] theorem runSetup_cfg (c : Command) (s : State) : (runSetup c s).cfg = s.cfg := by
  rw [runSetup_touches c s]
@[simp] theorem runSetup_now (c : Command) (s : State) : (runSetup c s).now = s.now := by
  rw [runSetup_touches c s]

/-- The rows whose setup starts work (R210). -/
def startsWork (c : Command) : Bool :=
  ([.write, .read, .readDel128, .readDel, .readId, .verify, .format, .seek] : List Command).contains c

/-- R350, R421, R450, R480: a setup that starts work or raises an error leaves status 0x80; any other leaves the status
it found. -/
theorem runSetup_status (c : Command) (s : State) :
    (runSetup c s).status = if startsWork c = true then statusWorking else s.status := by
  cases c with
  | write | read | readDel128 | readDel | verify =>
    exact sectorSetup_then_cases (P := fun u => u.status = statusWorking) _ _ _ _ _ _ (fun _ _ _ _ => rfl)
      (fun _ _ _ _ _ _ => rfl)
  | readId =>
    show (readIdSetup s).status = statusWorking
    unfold readIdSetup
    split
    · rfl
    · unfold readIdOnDrive; split <;> rfl
  | format =>
    show (formatSetup s).status = statusWorking
    unfold formatSetup
    split
    · rfl
    · split
      · rfl
      · split
        · rfl
        · unfold formatOnDrive formatOnTrack; split <;> rfl
  | seek => show (seekSetup s).status = statusWorking; unfold seekSetup; split <;> rfl
  | specify => show (specifySetup s).status = s.status; unfold specifySetup; split <;> rfl
  | writeSpecial =>
    show (writeSpecialSetup s).status = s.status; unfold writeSpecialSetup specialWrite; split <;> rfl
  | readStatus | readSpecial | scan | scanDel | write128 | writeDel128 | writeDel | read128 | verifyDel128
  | unknown => rfl

/-- R421: declaring a track's sector count leaves every byte. -/
theorem discRead_setLogicalSectors (s : State) (a : TrackAddr) (n : Nat) (b : ByteAddr) :
    discRead (setTrack s a { trackAt s a with logicalSectors := n }) b = discRead s b := by
  unfold discRead
  rw [trackAt_setTrack]
  by_cases hb : b.track = a
  · rw [if_pos hb, hb]; rfl
  · rw [if_neg hb]

/-- What a setup does to the disc model: nothing, or Format's declared sector count (R421). -/
theorem runSetup_disc (c : Command) (s : State) :
    (runSetup c s).disc = s.disc ∨
      ∃ a, (runSetup c s).disc = (setTrack s a { trackAt s a with logicalSectors := 10 }).disc := by
  cases c with
  | write | read | readDel128 | readDel | verify =>
    exact .inl (sectorSetup_then_cases (P := fun u => u.disc = s.disc) _ _ _ _ _ _ (fun _ _ _ _ => rfl)
      (fun _ _ _ _ _ _ => rfl))
  | readId =>
    refine .inl ?_
    show (readIdSetup s).disc = s.disc
    unfold readIdSetup
    split
    · rfl
    · unfold readIdOnDrive; split <;> rfl
  | format =>
    show (formatSetup s).disc = s.disc ∨ ∃ a, (formatSetup s).disc = _
    unfold formatSetup
    split
    · exact .inl rfl
    · split
      · exact .inl rfl
      · split
        · exact .inl rfl
        · unfold formatOnDrive formatOnTrack
          split
          · exact .inl rfl
          · exact .inr ⟨_, rfl⟩
  | seek => refine .inl ?_; show (seekSetup s).disc = s.disc; unfold seekSetup; split <;> rfl
  | specify => refine .inl ?_; show (specifySetup s).disc = s.disc; unfold specifySetup; split <;> rfl
  | writeSpecial =>
    refine .inl ?_
    show (writeSpecialSetup s).disc = s.disc; unfold writeSpecialSetup specialWrite; split <;> rfl
  | readStatus | readSpecial | scan | scanDel | write128 | writeDel128 | writeDel | read128 | verifyDel128
  | unknown => exact .inl rfl

/-! What the tick handlers touch. -/

/-- Going on to the next sector touches the position, the transfer and the scheduler (R354, R402). -/
theorem nextSector_touches (s : State) :
    nextSector s =
      { s with pos := (nextSector s).pos, xfer := (nextSector s).xfer, sched := (nextSector s).sched } := by
  unfold nextSector
  split <;> rfl

/-- What a writeback leaves of the state is a backing image (R142). -/
theorem writeback_touches (a : TrackAddr) (s : State) :
    (writeback a s).2 = { s with backing := (writeback a s).2.backing } := by
  cases hb : writebackBytes s.disc[a.drive] (trackAt s a) with
  | none => rw [writeback_of_refused a s hb]
  | some bs => rw [writeback_of_bytes a s bs hb]; rfl

/-- R402, R403, R422: the end of Write Data and Format, by whether the writeback succeeds. -/
theorem finishWithWriteback_eq (s : State) :
    finishWithWriteback s =
      if (writeback (workTrack s) (startWork s)).1 = true then
        endTransfer { s with
          status := statusWorking, result := 0x00, backing := (writeback (workTrack s) (startWork s)).2.backing }
      else
        raiseError errWriteProtect
          { s with status := statusWorking, backing := (writeback (workTrack s) (startWork s)).2.backing } := by
  have htouches := writeback_touches (workTrack s) (startWork s)
  unfold finishWithWriteback
  split
  · rename_i s1 he
    rw [he] at htouches ⊢
    obtain ⟨backing, rfl⟩ : ∃ backing, s1 = { startWork s with backing := backing } := ⟨_, htouches⟩
    exact (if_pos rfl).symm
  · rename_i s1 he
    rw [he] at htouches ⊢
    obtain ⟨backing, rfl⟩ : ∃ backing, s1 = { startWork s with backing := backing } := ⟨_, htouches⟩
    exact (if_neg Bool.false_ne_true).symm

/-- The end of Write Data and Format touches the status, the result, the transfer, the scheduler and the files. -/
theorem finishWithWriteback_touches (s : State) :
    finishWithWriteback s =
      { s with
        status := (finishWithWriteback s).status, result := (finishWithWriteback s).result
        xfer := (finishWithWriteback s).xfer, sched := (finishWithWriteback s).sched
        backing := (finishWithWriteback s).backing } := by
  rw [finishWithWriteback_eq]
  split <;> rfl

@[simp] theorem nextSector_disc (s : State) : (nextSector s).disc = s.disc := by rw [nextSector_touches]

@[simp] theorem finishWithWriteback_disc (s : State) : (finishWithWriteback s).disc = s.disc := by
  rw [finishWithWriteback_touches]

/-- A write tick's store touches the disc model alone (R402). -/
theorem storeData_touches (s : State) : storeData s = { s with disc := (storeData s).disc } := by
  unfold storeData
  split
  · exact discWrite_eq _ _ _
  · rfl

/-- A format tick's fill touches the disc model alone (R422). -/
theorem fillCurrent_touches (s : State) : fillCurrent s = { s with disc := (fillCurrent s).disc } := by
  unfold fillCurrent
  split
  · exact discFill_eq _ _ _ _
  · rfl

/-- Everything a tick handler can touch. -/
def HandlerTouches (s u : State) : Prop :=
  u = { s with
    status := u.status, result := u.result, data := u.data, xfer := u.xfer, pos := u.pos, sched := u.sched
    disc := u.disc, backing := u.backing }

theorem readTick_touches (s : State) : HandlerTouches s (readTick s) := by
  unfold readTick
  split
  · rfl
  · dsimp only
    split
    · rfl
    · split
      · unfold HandlerTouches; rw [nextSector_touches]; rfl
      · rfl

theorem writeTick_touches (s : State) : HandlerTouches s (writeTick s) := by
  unfold writeTick
  split
  · rfl
  · split
    · rfl
    · obtain ⟨disc, hstore⟩ : ∃ disc, storeData s = { s with disc := disc } := ⟨_, storeData_touches s⟩
      dsimp only
      rw [hstore]
      unfold HandlerTouches
      split
      · rfl
      · split
        · rw [nextSector_touches]; rfl
        · rw [finishWithWriteback_touches]; rfl

theorem formatTick_touches (s : State) : HandlerTouches s (formatTick s) := by
  unfold formatTick
  split
  · rfl
  · split
    · rfl
    · obtain ⟨disc, hfill⟩ : ∃ disc, fillCurrent (nextByte s) = { nextByte s with disc := disc } :=
        ⟨_, fillCurrent_touches (nextByte s)⟩
      dsimp only
      rw [hfill]
      unfold HandlerTouches
      split
      · rfl
      · split
        · rfl
        · rw [finishWithWriteback_touches]; rfl

theorem readIdTick_touches (s : State) : HandlerTouches s (readIdTick s) := by
  unfold readIdTick
  split
  · rfl
  · dsimp only
    split
    · rfl
    · split <;> rfl

/-- Every row's tick handler touches no more: not the latch, not the control registers, not misuse. -/
theorem runTick_touches (c : Command) (s : State) : HandlerTouches s (runTick c s) := by
  cases c with
  | write => exact writeTick_touches s
  | read | readDel128 | readDel => exact readTick_touches s
  | readId => exact readIdTick_touches s
  | format => exact formatTick_touches s
  | verify | seek | readStatus | specify | writeSpecial | readSpecial | scan | scanDel | write128 | writeDel128
  | writeDel | read128 | verifyDel128 | unknown => rfl

/-- What a write tick does to the disc model: nothing, or its store. -/
theorem writeTick_disc (s : State) : (writeTick s).disc = s.disc ∨ (writeTick s).disc = (storeData s).disc := by
  unfold writeTick
  split
  · exact .inl rfl
  · split
    · exact .inl rfl
    · refine .inr ?_
      dsimp only
      split
      · rfl
      · split
        · simp only [nextSector_disc, passSector_disc, nextByte_disc]
        · simp only [finishWithWriteback_disc, passSector_disc, nextByte_disc]

/-- What a format tick does to the disc model: nothing, or its fill. -/
theorem formatTick_disc (s : State) :
    (formatTick s).disc = s.disc ∨ (formatTick s).disc = (fillCurrent (nextByte s)).disc := by
  unfold formatTick
  split
  · exact .inl rfl
  · split
    · exact .inl rfl
    · dsimp only
      split
      · exact .inl rfl
      · refine .inr ?_
        split
        · rfl
        · simp only [finishWithWriteback_disc, nextIndex_disc]

/-- A read tick leaves the disc model. -/
theorem readTick_disc (s : State) : (readTick s).disc = s.disc := by
  unfold readTick
  split
  · rfl
  · dsimp only
    split
    · rfl
    · split
      · rw [nextSector_touches]; rfl
      · rfl

theorem readIdTick_disc (s : State) : (readIdTick s).disc = s.disc := by
  unfold readIdTick
  split
  · rfl
  · dsimp only
    split
    · rfl
    · split <;> rfl

/-! Everything a tick touches (R305). -/

theorem tickCommand_touches (s : State) : HandlerTouches s (tickCommand s) := by
  unfold tickCommand
  split
  · rfl
  · split
    · exact runTick_touches _ s
    · rfl

theorem motorStep_touches (s : State) :
    motorStep s = { s with ctrl := (motorStep s).ctrl, sched := (motorStep s).sched } := by
  unfold motorStep
  split
  · rfl
  · split
    · split <;> rfl
    · rfl

@[simp] theorem motorStep_disc (s : State) : (motorStep s).disc = s.disc := by rw [motorStep_touches]

/-- R305, R307: a tick leaves the latch, the parameters and the reset mark, and marks misuse when it is early. -/
theorem tick_frame (s : State) :
    (tick s).latch = s.latch ∧ (tick s).cfg = s.cfg ∧ (tick s).firstResetDone = s.firstResetDone ∧
      (tick s).misuse = (s.misuse || tickIsEarly s) := by
  unfold tick
  dsimp only
  split
  · rw [motorStep_touches]; exact ⟨rfl, rfl, rfl, rfl⟩
  · rw [scheduleUnload_eq]
    simp only [unloadScheduled_latch, unloadScheduled_cfg, unloadScheduled_firstResetDone, unloadScheduled_misuse]
    rw [tickCommand_touches { enterTick s with status := statusInterrupt (enterTick s).status }]
    exact ⟨rfl, rfl, rfl, rfl⟩

end Sys2Proof.Machine
end

section
/-! PROOFS. Rules of every instruction and of every host call that follow from what the accesses touch: what stores and
what sets a disc's attributes, what raises the interrupt, misuse and the parameters, and `command_busy` over a command's
parameters (40_host_interface.md section 3; 60_exceptions.md sections 3 and 5). -/

namespace Sys2Proof.Machine

/-! What a command and a parameter write can do (R260 to R266). -/

/-- The state in which a command of no parameters runs its setup (R263). -/
def immediateLatched (v : Byte) (s : State) : State :=
  { latchCommand v s with status := statusImmediate (latchCommand v s).status }

/-- The state in which the last parameter write runs the setup (R265). -/
def lastParamStored (v : Byte) (s : State) : State :=
  { storeParam v s with status := statusLastParam (storeParam v s).status }

theorem commandEffect_cases (v : Byte) (s : State) :
    (paramCount s.cfg.unsupportedParams (decodeCommand v) = 0 ∧
        commandEffect v s = runSetup (decodeCommand v) (immediateLatched v s)) ∨
      (paramCount s.cfg.unsupportedParams (decodeCommand v) ≠ 0 ∧ commandEffect v s = latchCommand v s) := by
  by_cases h : paramCount s.cfg.unsupportedParams (decodeCommand v) = 0
  · exact .inl ⟨h, commandEffect_of_immediate h⟩
  · exact .inr ⟨h, commandEffect_of_params h⟩

theorem paramEffect_cases (v : Byte) (s : State) :
    paramEffect v s = s ∨
      ∃ c, s.latch.entry = some c ∧ s.latch.paramReceived < s.latch.paramExpected ∧
        ((s.latch.paramReceived + 1 = s.latch.paramExpected ∧ paramEffect v s = runSetup c (lastParamStored v s)) ∨
          (s.latch.paramReceived + 1 ≠ s.latch.paramExpected ∧ paramEffect v s = storeParam v s)) := by
  unfold paramEffect
  split
  · exact .inl rfl
  · rename_i c hc
    by_cases hlt : s.latch.paramReceived < s.latch.paramExpected
    · rw [if_pos hlt]
      refine .inr ⟨c, hc, hlt, ?_⟩
      by_cases hlast : s.latch.paramReceived + 1 = s.latch.paramExpected
      · exact .inl ⟨hlast, if_pos hlast⟩
      · exact .inr ⟨hlast, if_neg hlast⟩
    · rw [if_neg hlt]; exact .inl rfl

/-- A relation that a write's effect and the unload scheduling keep to is one that the write keeps to. -/
theorem writeWindow_rel {R : State → State → Prop} (htrans : ∀ {s t u}, R s t → R t u → R s u) (hrefl : ∀ s, R s s)
    (hunload : ∀ s, R s (unloadScheduled s)) {effect : State → State} {s : State} (heffect : R s (effect s)) :
    R s (writeWindow effect s) := by
  unfold writeWindow
  split
  · rw [scheduleUnload_eq]; exact htrans heffect (hunload _)
  · exact hrefl s

/-- What a command write does is its latching and, for a row of no parameters, a setup. -/
theorem commandWrite_rel {R : State → State → Prop} (htrans : ∀ {s t u}, R s t → R t u → R s u) (hrefl : ∀ s, R s s)
    (hunload : ∀ s, R s (unloadScheduled s)) (hsetup : ∀ c s, R s (runSetup c s)) (v : Byte) (s : State)
    (hlatch : R s (latchCommand v s)) (himmediate : R s (immediateLatched v s)) : R s (commandWrite v s) := by
  refine writeWindow_rel (R := R) htrans hrefl hunload ?_
  rcases commandEffect_cases v s with ⟨-, he⟩ | ⟨-, he⟩
  · rw [he]; exact htrans himmediate (hsetup _ _)
  · rw [he]; exact hlatch

/-- What a parameter write does is its store and, for the last one, a setup. -/
theorem paramWrite_rel {R : State → State → Prop} (htrans : ∀ {s t u}, R s t → R t u → R s u) (hrefl : ∀ s, R s s)
    (hunload : ∀ s, R s (unloadScheduled s)) (hsetup : ∀ c s, R s (runSetup c s)) (v : Byte) (s : State)
    (hstore : R s (storeParam v s)) (hlast : R s (lastParamStored v s)) : R s (paramWrite v s) := by
  refine writeWindow_rel (R := R) htrans hrefl hunload ?_
  rcases paramEffect_cases v s with he | ⟨c, -, -, ⟨-, he⟩ | ⟨-, he⟩⟩
  · rw [he]; exact hrefl s
  · rw [he]; exact htrans hlast (hsetup c _)
  · rw [he]; exact hstore

/-- Every read touches no more than the status, the result and the value returned (R251 to R254). -/
theorem reads_touch (s : State) :
    (∃ st r v, readStatus s = { s with status := st, result := r, returned := v }) ∧
      (∃ st r v, readResultReg s = { s with status := st, result := r, returned := v }) ∧
      (∃ st r v, readData s = { s with status := st, result := r, returned := v }) ∧
      ∃ st r v, readOther s = { s with status := st, result := r, returned := v } := by
  unfold readStatus readResultReg readData readOther
  split <;> exact ⟨⟨_, _, _, rfl⟩, ⟨_, _, _, rfl⟩, ⟨_, _, _, rfl⟩, ⟨_, _, _, rfl⟩⟩

/-! Misuse and the parameters (R75, R8). -/

/-- The misuse flag stays set and the parameters stay as they are. -/
def MisuseKept (s u : State) : Prop := (s.misuse = true → u.misuse = true) ∧ u.cfg = s.cfg

theorem MisuseKept.of_eq {s u : State} (hm : u.misuse = s.misuse) (hc : u.cfg = s.cfg) : MisuseKept s u :=
  ⟨fun h => hm.trans h, hc⟩

theorem MisuseKept.of_or {s u : State} {b : Bool} (hm : u.misuse = (s.misuse || b)) (hc : u.cfg = s.cfg) :
    MisuseKept s u :=
  ⟨fun h => by rw [hm, h]; rfl, hc⟩

theorem MisuseKept.trans {s t u : State} (h1 : MisuseKept s t) (h2 : MisuseKept t u) : MisuseKept s u :=
  ⟨fun h => h2.1 (h1.1 h), h2.2.trans h1.2⟩

theorem MisuseKept.refl (s : State) : MisuseKept s s := .of_eq rfl rfl

theorem unloadScheduled_misuseKept (s : State) : MisuseKept s (unloadScheduled s) := .of_eq (by simp) (by simp)

theorem runSetup_misuseKept (c : Command) (s : State) : MisuseKept s (runSetup c s) :=
  .of_eq (runSetup_misuse c s) (runSetup_cfg c s)

theorem reads_misuseKept (s : State) :
    MisuseKept s (readStatus s) ∧ MisuseKept s (readResultReg s) ∧ MisuseKept s (readData s) ∧
      MisuseKept s (readOther s) := by
  obtain ⟨⟨_, _, _, h1⟩, ⟨_, _, _, h2⟩, ⟨_, _, _, h3⟩, ⟨_, _, _, h4⟩⟩ := reads_touch s
  rw [h1, h2, h3, h4]
  exact ⟨.of_eq rfl rfl, .of_eq rfl rfl, .of_eq rfl rfl, .of_eq rfl rfl⟩

/-- R722: every shell operation marks misuse while the block is busy. -/
theorem runShell_misuse (op : ShellOp) (s : State) :
    (runShell op s).misuse = (s.misuse || busy s) ∧ (runShell op s).cfg = s.cfg := by
  cases op with
  | loadFSD d bytes path => unfold runShell; dsimp only; split <;> exact ⟨rfl, rfl⟩
  | _ => exact ⟨rfl, rfl⟩

theorem controllerReset_misuseKept (s : State) : MisuseKept s (controllerReset s) := by
  rw [controllerReset_eq]; exact .of_eq rfl rfl

theorem misuse_callRule : CallRule MisuseKept where
  trans h1 h2 := h1.trans h2
  reads s := ⟨(reads_misuseKept s).1, (reads_misuseKept s).2.1, (reads_misuseKept s).2.2.1⟩
  command v s := commandWrite_rel .trans .refl unloadScheduled_misuseKept runSetup_misuseKept v s
    (.of_or rfl rfl) (.of_or rfl rfl)
  param v s := paramWrite_rel .trans .refl unloadScheduled_misuseKept runSetup_misuseKept v s
    (.of_eq rfl rfl) (.of_eq rfl rfl)
  data _ _ := writeWindow_rel .trans .refl unloadScheduled_misuseKept (.of_eq rfl rfl)
  refl := .refl
  accept _ _ _ := .of_eq rfl rfl
  readOther s := (reads_misuseKept s).2.2.2
  otherWrite s := writeWindow_rel .trans .refl unloadScheduled_misuseKept (.refl s)
  reset s := writeWindow_rel .trans .refl unloadScheduled_misuseKept (controllerReset_misuseKept s)
  tick s := .of_or (tick_frame s).2.2.2 (tick_frame s).2.1
  shell op s := .of_or (runShell_misuse op s).1 (runShell_misuse op s).2

/-- Settles O58: every host call keeps the flag and the parameters. -/
theorem misuseIsStickyAndParametersAreFixed : Obligations.MisuseIsStickyAndParametersAreFixed :=
  fun _ _ h => misuse_callRule.step h

/-! The interrupt (R271, R611). -/

/-- The NMI line does not rise. -/
def NoRise (s u : State) : Prop := u.nmi = true → s.nmi = true

theorem NoRise.trans {s t u : State} (h1 : NoRise s t) (h2 : NoRise t u) : NoRise s u := fun h => h1 (h2 h)

theorem NoRise.of_status {s u : State} (h : u.status = s.status) : NoRise s u := by
  intro hu
  unfold State.nmi at hu ⊢
  rwa [h] at hu

/-- R31: an OR with `command_busy` and `result_full`, and any mask, set no `interrupt_request`. -/
theorem interruptRequest_statusLatched (st : Byte) : interruptRequest (statusLatched st) = interruptRequest st := by
  simp [interruptRequest, statusLatched]

theorem interruptRequest_and {st mask : Byte} (h : interruptRequest (st &&& mask) = true) :
    interruptRequest st = true := by
  unfold interruptRequest at h ⊢
  rw [BitVec.getLsbD_and, Bool.and_eq_true] at h
  exact h.1

theorem NoRise.of_mask {s u : State} (mask : Byte) (h : u.status = s.status &&& mask) : NoRise s u := by
  intro hu
  unfold State.nmi at hu ⊢
  rw [h] at hu
  exact interruptRequest_and hu

theorem latchCommand_noRise (v : Byte) (s : State) : NoRise s (latchCommand v s) := fun h =>
  (interruptRequest_statusLatched s.status).symm.trans h

theorem unloadScheduled_noRise (s : State) : NoRise s (unloadScheduled s) := .of_status (by simp)

/-- A setup leaves the status, or 0x80 with no interrupt. -/
theorem runSetup_noRise (c : Command) (s : State) : NoRise s (runSetup c s) := by
  have hst := runSetup_status c s
  split at hst
  · intro hu
    unfold State.nmi at hu
    rw [hst] at hu
    exact absurd hu (by decide)
  · exact .of_status hst

theorem reads_noRise (s : State) :
    NoRise s (readStatus s) ∧ NoRise s (readResultReg s) ∧ NoRise s (readData s) := by
  unfold readStatus readResultReg readData
  split
  · exact ⟨.of_status rfl, .of_mask 0xE7 rfl, .of_mask 0xF3 rfl⟩
  · exact ⟨.of_status rfl, .of_status rfl, .of_status rfl⟩

theorem noRise_accessRule : AccessRule NoRise where
  trans h1 h2 := h1.trans h2
  reads := reads_noRise
  command v s := commandWrite_rel .trans (fun _ => .of_status rfl) unloadScheduled_noRise runSetup_noRise v s
    (latchCommand_noRise v s) ((latchCommand_noRise v s).trans (.of_mask 0x7E rfl))
  param v s := paramWrite_rel .trans (fun _ => .of_status rfl) unloadScheduled_noRise runSetup_noRise v s
    (.of_mask 0xFE rfl) (.of_mask 0x7E (statusLastParam_statusParam s.status))
  data _ _ := writeWindow_rel .trans (fun _ => .of_status rfl) unloadScheduled_noRise (.of_mask 0xF3 rfl)

/-- R700: reset leaves the interrupt low. -/
theorem resetWrite_noRise (s : State) : NoRise s (resetWrite s) := by
  refine writeWindow_rel .trans (fun _ => .of_status rfl) unloadScheduled_noRise (fun hu => ?_)
  unfold State.nmi at hu
  rw [controllerReset_eq] at hu
  exact absurd hu (show ¬ interruptRequest 0x00 = true by decide)

/-- Settles O57: no access of the block but a tick sets `interrupt_request`. -/
theorem onlyTicksRaiseTheInterrupt : Obligations.OnlyTicksRaiseTheInterrupt :=
  fun s _ _ hi h => noRise_accessRule.exec (fun _ => resetWrite_noRise s) (fun ht => absurd ht hi) h

/-! Stored bytes and attributes (R100, R174, R175, R630). -/

/-- Nothing is stored: every byte of the disc model, both files and every disc's attributes are as they were. -/
structure NoStore (s u : State) : Prop where
  bytes : ∀ b : ByteAddr, discRead u b = discRead s b
  backing : u.backing = s.backing
  attributes : AttributesKept s u

theorem NoStore.trans {s t u : State} (h1 : NoStore s t) (h2 : NoStore t u) : NoStore s u :=
  ⟨fun b => (h2.bytes b).trans (h1.bytes b), h2.backing.trans h1.backing, h1.attributes.trans h2.attributes⟩

theorem NoStore.of_disc {s u : State} (hd : u.disc = s.disc) (hb : u.backing = s.backing) : NoStore s u :=
  ⟨fun b => discRead_congr s u b hd, hb, attributesKept_of_disc s u hd⟩

theorem NoStore.refl (s : State) : NoStore s s := .of_disc rfl rfl

theorem unloadScheduled_noStore (s : State) : NoStore s (unloadScheduled s) := .of_disc (by simp) (by simp)

/-- R421: a setup declares at most a track's sector count, which is no byte and nothing a disc says of itself. -/
theorem runSetup_noStore (c : Command) (s : State) : NoStore s (runSetup c s) := by
  have hb : (runSetup c s).backing = s.backing := runSetup_backing c s
  rcases runSetup_disc c s with hd | ⟨a, hd⟩
  · exact .of_disc hd hb
  · have hdeclared : NoStore s (setTrack s a { trackAt s a with logicalSectors := 10 }) :=
      ⟨discRead_setLogicalSectors s a 10, rfl, setTrack_attributesKept s a _⟩
    exact hdeclared.trans (.of_disc hd hb)

theorem reads_noStore (s : State) : NoStore s (readStatus s) ∧ NoStore s (readResultReg s) ∧ NoStore s (readData s) := by
  obtain ⟨⟨_, _, _, h1⟩, ⟨_, _, _, h2⟩, ⟨_, _, _, h3⟩, -⟩ := reads_touch s
  rw [h1, h2, h3]
  exact ⟨.of_disc rfl rfl, .of_disc rfl rfl, .of_disc rfl rfl⟩

theorem noStore_accessRule : AccessRule NoStore where
  trans h1 h2 := h1.trans h2
  reads := reads_noStore
  command v s := commandWrite_rel .trans .refl unloadScheduled_noStore runSetup_noStore v s
    (.of_disc rfl rfl) (.of_disc rfl rfl)
  param v s := paramWrite_rel .trans .refl unloadScheduled_noStore runSetup_noStore v s
    (.of_disc rfl rfl) (.of_disc rfl rfl)
  data _ _ := writeWindow_rel .trans .refl unloadScheduled_noStore (.of_disc rfl rfl)

/-- A write tick's store and a format tick's fill leave every disc's attributes. -/
theorem storeData_attributesKept (s : State) : AttributesKept s (storeData s) := by
  unfold storeData
  split
  · exact discWrite_attributesKept s _ _
  · exact attributesKept_of_disc s s rfl

theorem fillCurrent_attributesKept (s : State) : AttributesKept s (fillCurrent s) := by
  unfold fillCurrent
  split
  · exact discFill_attributesKept s _ _ _
  · exact attributesKept_of_disc s s rfl

/-- R630: no tick handler changes what a disc says of itself. -/
theorem runTick_attributesKept (c : Command) (s : State) : AttributesKept s (runTick c s) := by
  cases c with
  | write =>
    rcases writeTick_disc s with hd | hd
    · exact attributesKept_of_disc s _ hd
    · exact (storeData_attributesKept s).trans (attributesKept_of_disc _ _ hd)
  | format =>
    rcases formatTick_disc s with hd | hd
    · exact attributesKept_of_disc s _ hd
    · exact (fillCurrent_attributesKept (nextByte s)).trans (attributesKept_of_disc _ _ hd)
  | read | readDel128 | readDel => exact attributesKept_of_disc s _ (readTick_disc s)
  | readId => exact attributesKept_of_disc s _ (readIdTick_disc s)
  | verify | seek | readStatus | specify | writeSpecial | readSpecial | scan | scanDel | write128 | writeDel128
  | writeDel | read128 | verifyDel128 | unknown => exact attributesKept_of_disc s _ rfl

theorem tickCommand_attributesKept (s : State) : AttributesKept s (tickCommand s) := by
  unfold tickCommand
  split
  · exact attributesKept_of_disc s _ rfl
  · split
    · exact runTick_attributesKept _ s
    · exact attributesKept_of_disc s _ rfl

theorem tick_attributesKept (s : State) : AttributesKept s (tick s) := by
  unfold tick
  dsimp only
  split
  · exact attributesKept_of_disc s _ (motorStep_disc (enterTick s))
  · rw [scheduleUnload_eq]
    refine AttributesKept.trans ?_ (attributesKept_of_disc _ _ (unloadScheduled_disc _))
    exact tickCommand_attributesKept { enterTick s with status := statusInterrupt (enterTick s).status }

/-- R704: once the first reset is done a reset leaves the discs. -/
theorem resetWrite_disc {s : State} (h : s.firstResetDone = true) : (resetWrite s).disc = s.disc := by
  refine writeWindow_rel (R := fun s u => u.disc = s.disc) (fun h1 h2 => h2.trans h1) (fun _ => rfl)
    (fun _ => unloadScheduled_disc _) ?_
  rw [controllerReset_eq]
  exact if_pos h

theorem attributes_accessRule : AccessRule AttributesKept where
  trans h1 h2 := h1.trans h2
  reads s := ⟨(noStore_accessRule.reads s).1.attributes, (noStore_accessRule.reads s).2.1.attributes,
    (noStore_accessRule.reads s).2.2.attributes⟩
  command v s := (noStore_accessRule.command v s).attributes
  param v s := (noStore_accessRule.param v s).attributes
  data v s := (noStore_accessRule.data v s).attributes

/-- Settles O56: no access but a tick stores; the attributes pass every access, a tick and a later reset among them. -/
theorem onlyTicksStoreAndNoInstructionSetsAttributes : Obligations.OnlyTicksStoreAndNoInstructionSetsAttributes := by
  constructor
  · intro s u i htick hreset h
    have hn : NoStore s u :=
      noStore_accessRule.exec (fun ⟨v, hv⟩ => absurd hv (hreset v)) (fun ht => absurd ht htick) h
    exact ⟨hn.bytes, hn.backing⟩
  · intro s u i hdone h
    refine attributes_accessRule.exec (fun ⟨v, hv⟩ => ?_) (fun _ => tick_attributesKept s) h
    rcases hdone with hdone | hno
    · exact attributesKept_of_disc s _ (resetWrite_disc hdone)
    · exact absurd hv (hno v)

/-! `command_busy` over a command's parameters (R265). -/

/-- A parameter write that is not the last leaves `command_busy` (R264). -/
theorem commandBusy_statusParam (st : Byte) : commandBusy (statusParam st) = commandBusy st := by
  simp [commandBusy, statusParam]

/-- Settles O59: a parameter that is not the last leaves the bit, and the last one runs a setup that leaves 0x80. -/
theorem commandBusyStaysSetOverParametersAndSetup : Obligations.CommandBusyStaysSetOverParametersAndSetup := by
  intro s u v c he hc hlt hbusy h hrow
  have hu : u = unloadScheduled (paramEffect v s) := by
    injection h with h; rw [← h]; exact writeWindow_of_enabled he (paramEffect v)
  subst hu
  rw [unloadScheduled_latch, unloadScheduled_status] at *
  rcases paramEffect_cases v s with heff | ⟨c', hc', -, ⟨hlast, heff⟩ | ⟨-, heff⟩⟩
  · rw [heff]; exact hbusy
  · obtain rfl : c = c' := Option.some.inj (hc.symm.trans hc')
    rw [heff] at hrow ⊢
    have hlatch : (runSetup c (lastParamStored v s)).latch = (lastParamStored v s).latch :=
      runSetup_latch c _
    rw [hlatch] at hrow
    rcases hrow with hmore | hwork
    · exact absurd hlast (Nat.ne_of_lt hmore)
    · rw [runSetup_status, if_pos (show startsWork c = true by simpa [startsWork] using hwork)]
      decide
  · rw [heff]
    exact (commandBusy_statusParam s.status).trans hbusy

end Sys2Proof.Machine
end

section
/-! PROOFS. Readiness: a host that never misuses the block always finds a running command ready for its next tick
(10_state.md section 5; 40_host_interface.md section 3; 41_scheduler.md section 2). -/

namespace Sys2Proof.Machine

/-! When a state is ready at once. -/

/-- No command's tick is armed: nothing is, or the unload is (R60, R304). -/
def Unarmed (s : State) : Prop := s.sched.trigger = none ∨ s.sched.unloadPending = true

/-- The latched command is the row `c` with all its parameters received. -/
def Complete (s : State) (c : Command) : Prop :=
  s.latch.entry = some c ∧ s.latch.paramReceived = s.latch.paramExpected

theorem Complete.of_latch {s u : State} {c : Command} (h : Complete s c) (hlatch : u.latch = s.latch) :
    Complete u c := by
  unfold Complete
  rw [hlatch]
  exact h

/-- R76: a block that is not busy has no command's tick armed. -/
theorem unarmed_of_not_busy {s : State} (h : busy s = false) : Unarmed s := by
  obtain ⟨-, harmed⟩ := Bool.or_eq_false_iff.mp h
  cases htrigger : s.sched.trigger with
  | none => exact .inl htrigger
  | some t => right; simpa [htrigger] using harmed

theorem not_working_of_unarmed {s : State} (h : Unarmed s) : ¬ Working s := by
  rintro ⟨htrigger, hunload, -⟩
  rcases h with h | h
  · rw [h] at htrigger; cases htrigger
  · rw [h] at hunload; cases hunload

theorem transferReady_of_unarmed {s : State} (h : Unarmed s) : TransferReady s :=
  fun _ => ⟨fun _ => h, fun hw => absurd hw (not_working_of_unarmed h)⟩

/-- A command whose parameters are all received is ready when its handler is, if its own tick is armed. -/
theorem transferReady_of_complete {s : State} {c : Command} (h : Complete s c)
    (hready : s.xfer.nextInterruptIsErr = 0x00 → HandlerReady c s) : TransferReady s :=
  fun _ => ⟨fun hlt => absurd h.2 (Nat.ne_of_lt hlt), fun hw => ⟨h.2, c, h.1, hready hw.2.2⟩⟩

theorem transferReady_of_misuse {s : State} (h : s.misuse = true) : TransferReady s := by
  intro hm
  rw [h] at hm
  cases hm

/-- What readiness looks at, beside a misuse flag that may be set. -/
theorem TransferReady.congr {s u : State} (h : TransferReady s) (hmisuse : u.misuse = false → s.misuse = false)
    (hlatch : u.latch = s.latch) (hxfer : u.xfer = s.xfer) (hsched : u.sched = s.sched) (hdisc : u.disc = s.disc) :
    TransferReady u := by
  intro hm
  obtain ⟨hawait, hwork⟩ := h (hmisuse hm)
  have htrack : ∀ a, trackAt u a = trackAt s a := fun a => trackAt_congr s u a hdisc
  unfold Working at *
  rw [hlatch, hsched, hxfer]
  refine ⟨hawait, fun hw => ?_⟩
  obtain ⟨hcount, c, hc, hready⟩ := hwork hw
  refine ⟨hcount, c, hc, ?_⟩
  unfold HandlerReady SectorReady FormatReady ReadIdReady At at *
  simpa only [hxfer, htrack] using hready

/-- The unload's scheduling arms no command's tick (R304). -/
theorem unarmed_unloadScheduled {s : State} (h : Unarmed s) : Unarmed (unloadScheduled s) := by
  rcases unloadScheduled_cases s with he | ⟨-, -, he⟩
  · rw [he]; exact h
  · rw [he]; exact .inr rfl

theorem transferReady_unloadScheduled {s : State} (h : TransferReady s) : TransferReady (unloadScheduled s) := by
  rcases unloadScheduled_cases s with he | ⟨-, htrigger, -⟩
  · rw [he]; exact h
  · exact transferReady_of_unarmed (unarmed_unloadScheduled (.inl htrigger))

/-- A raised error's tick is no command's own (R310). -/
theorem transferReady_raiseError {s : State} {c : Command} (code : Byte) (h : Complete s c) (hcode : code ≠ 0x00) :
    TransferReady (raiseError code s) :=
  transferReady_of_complete (s := raiseError code s) h (fun he => absurd he hcode)

/-- R600: every code a setup raises is an error. -/
theorem raised_ne_zero :
    ∀ code : Byte, code ∈ [errNotReady, errWriteProtect, errSectorNotFound, errNotPresent] → code ≠ 0x00 := by
  decide

/-! The handlers that move a sector's bytes. -/

/-- The rows whose transfer works on a sector's bytes. -/
def movesSectors (c : Command) : Bool := isReadCommand c || c == .write

/-- What such a row's handler needs. -/
theorem handlerReady_iff_of_movesSectors {c : Command} (hc : movesSectors c = true) (s : State) :
    HandlerReady c s ↔ (0 ≤ s.xfer.sectorsToGo → SectorReady s) := by
  cases c with
  | write | read | readDel | readDel128 => exact Iff.rfl
  | _ => cases hc

/-- R350, R351, R354: a sector found on a well-kept readable track is ready to move its bytes. -/
theorem sectorReady_beginSector {s : State} {a : TrackAddr} {r : Nat} {id : Byte} {p : Nat}
    (ha : s.xfer.curTrack = some a) (hkept : (trackAt s a).Kept) (hreadable : (trackAt s a).readable = true)
    (hlength : 128 ≤ s.xfer.requestedLength) (hfound : findSector (trackAt s a) id p = some r) :
    SectorReady (beginSector r s) := by
  obtain ⟨x, hx, -⟩ := findSector_some _ id p r hkept hfound
  obtain ⟨-, hsize⟩ := hkept.sector _ _ _ hx
  have hx128 := hsize hreadable
  rw [beginSector_eq r s a x ha hx]
  exact ⟨a, r, x, ⟨ha, rfl, hx⟩, hreadable, hlength,
    show 0 < min s.xfer.requestedLength x.realSize from by omega, Nat.min_le_right _ _⟩

/-- R203: every requested length is at least 128. -/
theorem requestedLength_ge (v : Byte) : 128 ≤ requestedLength v :=
  Nat.pow_le_pow_right (n := 2) (by omega) (Nat.le_add_right 7 (sizeCode v))

/-- R354, R402: going on to the next sector leaves a ready command. -/
theorem transferReady_nextSector {s : State} {c : Command} {a : TrackAddr} (hc : movesSectors c = true)
    (hcomplete : Complete s c) (ha : s.xfer.curTrack = some a) (hkept : (trackAt s a).Kept)
    (hreadable : (trackAt s a).readable = true) (hlength : 128 ≤ s.xfer.requestedLength) :
    TransferReady (nextSector s) := by
  cases hf : findSector (trackAt s a) (s.xfer.sectorId + 1) s.pos.positionInTrack with
  | none =>
    rw [nextSector_of_missing s a ha hf]
    exact transferReady_raiseError _ hcomplete (by decide)
  | some r =>
    unfold nextSector
    rw [workTrack_of_some s a ha, hf]
    have hready : SectorReady (beginSector r (nextId s)) :=
      sectorReady_beginSector (s := nextId s) ha hkept hreadable hlength hf
    exact transferReady_of_complete (s := arm _ _) hcomplete
      (fun _ => (handlerReady_iff_of_movesSectors hc _).mpr (fun _ => hready))

/-- The rows that end with a final tick (R355). -/
def hasFinalTick (c : Command) : Bool := movesSectors c || c == .format || c == .readId

/-- R354, R355: with the final tick pending a handler needs nothing. -/
theorem handlerReady_of_over {c : Command} (hc : hasFinalTick c = true) {s : State} (hgo : s.xfer.sectorsToGo < 0) :
    HandlerReady c s := by
  cases c with
  | write | read | readDel | readDel128 | format | readId => exact fun h => absurd hgo (Int.not_lt.mpr h)
  | _ => cases hc

theorem transferReady_endTransfer {s : State} {c : Command} (hc : hasFinalTick c = true) (h : Complete s c) :
    TransferReady (endTransfer s) :=
  transferReady_of_complete (s := endTransfer s) h (fun _ => handlerReady_of_over hc (show (-1 : Int) < 0 by decide))

/-- R402, R403, R422: the end of Write Data and Format leaves a ready command. -/
theorem transferReady_finishWithWriteback {s : State} {c : Command} (hc : hasFinalTick c = true) (h : Complete s c) :
    TransferReady (finishWithWriteback s) := by
  rw [finishWithWriteback_eq]
  split
  · exact transferReady_endTransfer hc h
  · exact transferReady_raiseError _ h (by decide)

/-! The setups leave a ready command (R210). -/

/-- A sector setup, followed by an arming that leaves what readiness looks at. -/
theorem transferReady_sectorSetup {s : State} {c : Command} (t sec v : Byte) (nw : Bool) {next : State → State}
    (hdisc : DiscKept s) (hcomplete : Complete s c)
    (hnext : ∀ u, u.latch = s.latch → SectorReady u → TransferReady (next u)) :
    TransferReady (match sectorSetup t sec v nw s with
      | .ok s1 => next s1
      | .error s1 => s1) := by
  refine sectorSetup_then_cases (P := TransferReady) t sec v nw s next
    (fun code _ _ hcode => transferReady_raiseError code hcomplete (raised_ne_zero code hcode))
    (fun d p r _ hreadable hsector => hnext _ rfl ?_)
  exact sectorReady_beginSector
    (s := onTrack ⟨d, selHead s, p⟩ (takeOperands t sec v (headTo p (resolveTrack t (startWork s)))))
    rfl (hdisc ⟨d, selHead s, p⟩) hreadable (requestedLength_ge v) hsector

/-- Arming the first tick of a row that moves sectors. -/
theorem transferReady_arm_of_sectorReady {s : State} {c : Command} (hc : movesSectors c = true) (delay : Nat)
    (hcomplete : Complete s c) (hready : SectorReady s) : TransferReady (arm delay s) :=
  transferReady_of_complete (s := arm delay s) hcomplete
    (fun _ => (handlerReady_iff_of_movesSectors hc _).mpr (fun _ => hready))

theorem transferReady_readSetup {s : State} {c : Command} (hc : movesSectors c = true) (t sec v : Byte)
    (hdisc : DiscKept s) (hcomplete : Complete s c) : TransferReady (readSetup t sec v s) :=
  transferReady_sectorSetup t sec v false hdisc hcomplete
    (fun _ hlatch hready => transferReady_arm_of_sectorReady hc _ (hcomplete.of_latch hlatch) hready)

theorem transferReady_writeDataSetup {s : State} (hdisc : DiscKept s) (hcomplete : Complete s .write) :
    TransferReady (writeDataSetup s) :=
  transferReady_sectorSetup _ _ _ true hdisc hcomplete
    (fun u hlatch hready => transferReady_arm_of_sectorReady
      (s := { u with xfer := { u.xfer with firstWriteInterrupt := true } }) rfl _ (hcomplete.of_latch hlatch) hready)

theorem transferReady_verifySetup {s : State} (hdisc : DiscKept s) (hcomplete : Complete s .verify) :
    TransferReady (verifySetup s) :=
  transferReady_sectorSetup _ _ _ false hdisc hcomplete
    (fun _ hlatch _ => transferReady_of_complete (hcomplete.of_latch hlatch) (fun _ => trivial))

theorem transferReady_readIdSetup {s : State} (hcomplete : Complete s .readId) : TransferReady (readIdSetup s) := by
  unfold readIdSetup
  split
  · exact transferReady_raiseError _ hcomplete (by decide)
  · unfold readIdOnDrive
    split
    · exact transferReady_raiseError _ hcomplete (by decide)
    · rename_i p hp
      have hn := answersTo_nSectors _ _ (findTrack_some _ _ _ _ p hp)
      exact transferReady_of_complete (c := .readId) hcomplete (fun _ _ => ⟨_, rfl, hn, show 0 < 4 by decide⟩)

theorem transferReady_formatSetup {s : State} (hcomplete : Complete s .format) : TransferReady (formatSetup s) := by
  unfold formatSetup
  split
  · exact transferReady_raiseError _ hcomplete (by decide)
  · split
    · exact transferReady_raiseError _ hcomplete (by decide)
    · split
      · exact transferReady_raiseError _ hcomplete (by decide)
      · unfold formatOnDrive formatOnTrack
        split
        · exact transferReady_raiseError _ hcomplete (by decide)
        · rename_i hten
          refine transferReady_of_complete (c := .format) hcomplete (fun _ _ => ?_)
          refine ⟨_, 0, rfl, rfl, ?_, show ((0 : Nat) : Int) = 10 - 10 by decide, by decide, show 0 < 4 by decide⟩
          refine Nat.le_of_not_lt fun hlt => hten ?_
          rwa [trackAt_congr _ _ _ (show (arm _ _).disc = (setTrack _ _ _).disc from rfl), trackAt_setTrack_self] at hlt

theorem transferReady_seekSetup {s : State} (hcomplete : Complete s .seek) : TransferReady (seekSetup s) := by
  unfold seekSetup
  split
  · exact transferReady_raiseError _ hcomplete (by decide)
  · exact transferReady_of_complete (c := .seek) hcomplete (fun _ => trivial)

/-- R500 to R545: a setup that starts no work arms nothing. -/
theorem runSetup_sched {c : Command} (hc : startsWork c = false) (s : State) : (runSetup c s).sched = s.sched := by
  cases c with
  | specify => show (specifySetup s).sched = s.sched; unfold specifySetup; split <;> rfl
  | writeSpecial =>
    show (writeSpecialSetup s).sched = s.sched; unfold writeSpecialSetup specialWrite; split <;> rfl
  | readStatus | readSpecial | scan | scanDel | write128 | writeDel128 | writeDel | read128 | verifyDel128
  | unknown => rfl
  | write | read | readDel128 | readDel | readId | verify | format | seek => cases hc

/-- R210: every row whose setup starts work takes parameters. -/
theorem paramCount_ne_zero_of_startsWork {c : Command} (hc : startsWork c = true) (n : UnsupportedParams) :
    paramCount n c ≠ 0 := by
  cases c with
  | write | read | readDel128 | readDel | readId | verify | format | seek => simp [paramCount]
  | _ => cases hc

/-- The setup of a complete command leaves a ready one, when no command's tick was armed. -/
theorem transferReady_runSetup {s : State} {c : Command} (hdisc : DiscKept s) (hcomplete : Complete s c)
    (hunarmed : Unarmed s) : TransferReady (runSetup c s) := by
  by_cases hwork : startsWork c = true
  · cases c with
    | write => exact transferReady_writeDataSetup hdisc hcomplete
    | read | readDel128 | readDel => exact transferReady_readSetup rfl _ _ _ hdisc hcomplete
    | readId => exact transferReady_readIdSetup hcomplete
    | verify => exact transferReady_verifySetup hdisc hcomplete
    | format => exact transferReady_formatSetup hcomplete
    | seek => exact transferReady_seekSetup hcomplete
    | _ => cases hwork
  · refine transferReady_of_unarmed ?_
    unfold Unarmed
    rw [runSetup_sched (Bool.eq_false_iff.mpr hwork)]
    exact hunarmed

/-! The window's writes (R257 to R272). -/

theorem writeWindow_ready {effect : State → State} {s : State} (h : TransferReady s)
    (heffect : TransferReady (effect s)) : TransferReady (writeWindow effect s) := by
  unfold writeWindow
  split
  · rw [scheduleUnload_eq]; exact transferReady_unloadScheduled heffect
  · exact h

/-- A command write while the block is busy is misuse; otherwise no command's tick is armed when it latches. -/
theorem commandWrite_ready (v : Byte) {s : State} (h : TransferReady s) : TransferReady (commandWrite v s) := by
  refine writeWindow_ready h ?_
  cases hbusy : busy s with
  | true =>
    have hmisuse : (latchCommand v s).misuse = true := by show (s.misuse || busy s) = true; rw [hbusy, Bool.or_true]
    refine transferReady_of_misuse ?_
    rcases commandEffect_cases v s with ⟨-, he⟩ | ⟨-, he⟩
    · rw [he, runSetup_misuse]; exact hmisuse
    · rw [he]; exact hmisuse
  | false =>
    have hunarmed : Unarmed s := unarmed_of_not_busy hbusy
    refine transferReady_of_unarmed ?_
    rcases commandEffect_cases v s with ⟨hn, he⟩ | ⟨-, he⟩
    · have hwork : startsWork (decodeCommand v) = false :=
        Bool.eq_false_iff.mpr fun hw => paramCount_ne_zero_of_startsWork hw _ hn
      unfold Unarmed
      rw [he, runSetup_sched hwork]
      exact hunarmed
    · rw [he]; exact hunarmed

/-- R264, R265: parameters are awaited only while no command's tick is armed. -/
theorem paramWrite_ready (v : Byte) {s : State} (hkept : Kept s) (h : TransferReady s) :
    TransferReady (paramWrite v s) := by
  refine writeWindow_ready h ?_
  rcases paramEffect_cases v s with he | ⟨c, hc, hlt, hlast⟩
  · rw [he]; exact h
  · cases hm : s.misuse with
    | true =>
      refine transferReady_of_misuse ?_
      rcases hlast with ⟨-, he⟩ | ⟨-, he⟩
      · rw [he, runSetup_misuse]; exact hm
      · rw [he]; exact hm
    | false =>
      have hunarmed : Unarmed s := (h hm).1 hlt
      rcases hlast with ⟨hlast, he⟩ | ⟨-, he⟩
      · rw [he]
        exact transferReady_runSetup (s := lastParamStored v s) hkept.disc ⟨hc, hlast⟩ hunarmed
      · rw [he]; exact transferReady_of_unarmed (s := storeParam v s) hunarmed

/-- R700: reset leaves nothing armed but an unload. -/
theorem resetWrite_ready {s : State} (h : TransferReady s) : TransferReady (resetWrite s) := by
  refine writeWindow_ready h (transferReady_of_unarmed ?_)
  rw [controllerReset_eq]
  by_cases hm : s.sched.motorLoaded = true
  · exact .inr hm
  · exact .inl (if_neg hm)

/-- Settles O54: reset leaves nothing armed. -/
theorem resetStateIsReady : Obligations.ResetStateIsReady := transferReady_of_unarmed (.inl rfl)

/-! The tick handlers (R210). -/

/-- A sector whose track's headers are as before is there as before, but for its bytes. -/
theorem sectorAt_some_of_headers {tr tr' : Track} (h : tr'.headers = tr.headers) {i : Nat} {x : Sector}
    (hx : tr.sectorAt i = some x) : ∃ m, tr'.sectorAt i = some { x with data := m } := by
  have hmap := tr.sectorAt_of_headers tr' h i
  rw [hx] at hmap
  cases hy : tr'.sectorAt i with
  | none => rw [hy] at hmap; cases hmap
  | some y =>
    rw [hy] at hmap
    refine ⟨y.data, ?_⟩
    have hxy : { y with data := [] } = { x with data := [] } := Option.some.inj hmap
    have hback := congrArg (fun z : Sector => { z with data := y.data }) hxy
    exact congrArg some hback

/-- A write tick's store and a format tick's fill leave every track's headers (R404). -/
theorem storeData_headers (s : State) (a : TrackAddr) : (trackAt (storeData s) a).headers = (trackAt s a).headers := by
  unfold storeData
  split
  · exact discWrite_headers s _ _ a
  · rfl

theorem fillCurrent_headers (s : State) (a : TrackAddr) :
    (trackAt (fillCurrent s) a).headers = (trackAt s a).headers := by
  unfold fillCurrent
  split
  · exact discFill_headers s _ _ _ a
  · rfl

/-- A sector's next byte is as ready as the one before it, on tracks with the same headers (R354, R402). -/
theorem sectorReady_nextByte {s u : State} (h : SectorReady s)
    (hheaders : ∀ a, (trackAt u a).headers = (trackAt s a).headers)
    (hxfer : u.xfer = { s.xfer with byteIndex := s.xfer.byteIndex + 1 })
    (hmore : u.xfer.byteIndex < u.xfer.sectorLength) : SectorReady u := by
  obtain ⟨a, i, x, ⟨ha, hi, hx⟩, hreadable, hlength, -, hsize⟩ := h
  obtain ⟨m, hm⟩ := sectorAt_some_of_headers (hheaders a) hx
  rw [hxfer] at hmore
  refine ⟨a, i, { x with data := m }, ⟨?_, ?_, hm⟩, ?_, ?_⟩
  · rw [hxfer]; exact ha
  · rw [hxfer]; exact hi
  · rw [Track.readable_of_headers _ _ (hheaders a)]; exact hreadable
  · rw [hxfer]; exact ⟨hlength, hmore, hsize⟩

/-- The read tick (R354). -/
theorem transferReady_readTick {s : State} {c : Command} (hc : movesSectors c = true) (hdisc : DiscKept s)
    (hcomplete : Complete s c) (hunarmed : Unarmed s) (h : HandlerReady c s) : TransferReady (readTick s) := by
  have hfinal : hasFinalTick c = true := by simp [hasFinalTick, hc]
  unfold readTick
  split
  · exact transferReady_of_unarmed (s := finalTick s) hunarmed
  · rename_i hgo
    have hready := (handlerReady_iff_of_movesSectors hc s).mp h (Int.not_lt.mp hgo)
    dsimp only
    split
    · rename_i hmore
      exact transferReady_arm_of_sectorReady (s := deliverByte s) hc _ hcomplete
        (sectorReady_nextByte hready (fun _ => rfl) rfl hmore)
    · obtain ⟨a, i, x, ⟨ha, -, -⟩, hreadable, hlength, -⟩ := hready
      split
      · exact transferReady_nextSector (s := passSector (deliverByte s)) hc hcomplete ha (hdisc a) hreadable hlength
      · exact transferReady_endTransfer (s := passSector (deliverByte s)) hfinal hcomplete

/-- The write tick (R402). -/
theorem transferReady_writeTick {s : State} (hkept : Kept s) (hcomplete : Complete s .write) (hunarmed : Unarmed s)
    (h : HandlerReady .write s) : TransferReady (writeTick s) := by
  obtain ⟨disc, hstore⟩ : ∃ disc, storeData s = { s with disc := disc } := ⟨_, storeData_touches s⟩
  have hheaders : ∀ a, (trackAt (storeData s) a).headers = (trackAt s a).headers := storeData_headers s
  have hdisc := (storeData_kept s hkept).disc
  rw [hstore] at hheaders hdisc
  unfold writeTick
  split
  · exact transferReady_of_unarmed (s := finalTick s) hunarmed
  · rename_i hgo
    have hready : SectorReady s := h (Int.not_lt.mp hgo)
    split
    · exact transferReady_arm_of_sectorReady (c := .write) rfl _ hcomplete hready
    · rw [hstore]
      dsimp only
      split
      · rename_i hmore
        exact transferReady_arm_of_sectorReady (c := .write) rfl _ hcomplete
          (sectorReady_nextByte hready hheaders rfl hmore)
      · obtain ⟨a, i, x, ⟨ha, -, -⟩, hreadable, hlength, -⟩ := hready
        split
        · refine transferReady_nextSector (c := .write) (a := a) rfl hcomplete ha (hdisc a) ?_ hlength
          exact (Track.readable_of_headers _ _ (hheaders a)).trans hreadable
        · exact transferReady_finishWithWriteback (c := .write) rfl hcomplete

/-- The format tick (R422). -/
theorem transferReady_formatTick {s : State} (hcomplete : Complete s .format) (hunarmed : Unarmed s)
    (h : HandlerReady .format s) : TransferReady (formatTick s) := by
  obtain ⟨disc, hfill⟩ : ∃ disc, fillCurrent (nextByte s) = { nextByte s with disc := disc } :=
    ⟨_, fillCurrent_touches (nextByte s)⟩
  have hheaders : ∀ a, (trackAt (fillCurrent (nextByte s)) a).headers = (trackAt s a).headers :=
    fillCurrent_headers (nextByte s)
  rw [hfill] at hheaders
  unfold formatTick
  split
  · exact transferReady_of_unarmed (s := finalTick s) hunarmed
  · rename_i hgo
    have hready : FormatReady s := h (Int.not_lt.mp hgo)
    split
    · exact transferReady_of_complete (c := .format) hcomplete (fun _ _ => hready)
    · obtain ⟨a, i, ha, hi, hten, hindex, hlt, hbyte⟩ := hready
      dsimp only
      rw [hfill]
      split
      · rename_i hmore
        exact transferReady_of_complete (c := .format) hcomplete
          (fun _ _ => ⟨a, i, ha, hi, hten, hindex, hlt, hmore⟩)
      · split
        · rename_i hleft
          have hleft' : 0 < s.xfer.sectorsToGo - 1 := hleft
          refine transferReady_of_complete (c := .format) hcomplete (fun _ _ => ⟨a, i + 1, ha, ?_, ?_, ?_, ?_, ?_⟩)
          · exact congrArg (fun k => some (k + 1)) (workSector_of_some s i hi)
          · exact hten.trans_eq (Track.nSectors_of_headers _ _ (hheaders a)).symm
          · show ((i + 1 : Nat) : Int) = 10 - (s.xfer.sectorsToGo - 1); omega
          · omega
          · show 0 < 4; decide
        · exact transferReady_finishWithWriteback (c := .format) rfl hcomplete

/-- The Read ID tick (R452). -/
theorem transferReady_readIdTick {s : State} (hcomplete : Complete s .readId) (hunarmed : Unarmed s)
    (h : HandlerReady .readId s) : TransferReady (readIdTick s) := by
  unfold readIdTick
  split
  · exact transferReady_of_unarmed (s := finalTick s) hunarmed
  · rename_i hgo
    obtain ⟨a, ha, hn, -⟩ : ReadIdReady s := h (Int.not_lt.mp hgo)
    dsimp only
    split
    · rename_i hmore
      exact transferReady_of_complete (c := .readId) hcomplete (fun _ _ => ⟨a, ha, hn, hmore⟩)
    · split
      · exact transferReady_of_complete (c := .readId) hcomplete (fun _ _ => ⟨a, ha, hn, show 0 < 4 by decide⟩)
      · exact transferReady_endTransfer (c := .readId) rfl hcomplete

/-- A ready command's tick handler, run with nothing armed, leaves a ready command. -/
theorem transferReady_runTick {s : State} {c : Command} (hkept : Kept s) (hcomplete : Complete s c)
    (hunarmed : Unarmed s) (h : HandlerReady c s) : TransferReady (runTick c s) := by
  cases c with
  | write => exact transferReady_writeTick hkept hcomplete hunarmed h
  | read | readDel128 | readDel => exact transferReady_readTick (c := _) rfl hkept.disc hcomplete hunarmed h
  | readId => exact transferReady_readIdTick hcomplete hunarmed h
  | format => exact transferReady_formatTick hcomplete hunarmed h
  | verify | seek => exact transferReady_of_unarmed hunarmed
  | _ => exact h.elim

/-! The tick (R305). -/

/-- A tick's motor step, or its handler's own, keeps a command whose tick was armed ready for the next one. -/
theorem TransferReady.of_armed {s u : State} (h : TransferReady s) (hm : s.misuse = false) (harmed : ¬ Unarmed s)
    (hlatch : u.latch = s.latch) (hxfer : u.xfer = s.xfer) (hdisc : u.disc = s.disc) : TransferReady u := by
  have hsame : TransferReady { u with misuse := s.misuse, sched := s.sched } :=
    h.congr (fun hm => hm) hlatch hxfer rfl hdisc
  have htrigger : s.sched.trigger.isSome = true := Option.isSome_iff_ne_none.mpr fun hn => harmed (.inl hn)
  have hunload : s.sched.unloadPending = false := Bool.eq_false_iff.mpr fun hu => harmed (.inr hu)
  obtain ⟨hawait, hwork⟩ := hsame hm
  exact fun _ => ⟨fun hlt => absurd (hawait hlt) harmed, fun hw => hwork ⟨htrigger, hunload, hw.2.2⟩⟩

/-- R321 to R323: a tick's motor step arms the command's tick again, or unloads. -/
theorem motorStep_ready {s : State} (h : TransferReady s) (hm : s.misuse = false)
    (htrigger : s.sched.trigger ≠ none) : TransferReady (motorStep (enterTick s)) := by
  unfold motorStep
  split
  · exact transferReady_of_unarmed (.inl rfl)
  · rename_i hunload
    have harmed : ¬ Unarmed s := fun hu => hu.elim htrigger hunload
    split
    · split
      · exact h.of_armed hm harmed rfl rfl rfl
      · exact h.of_armed hm harmed rfl rfl rfl
    · exact transferReady_of_unarmed (.inl rfl)

/-- R305 steps 4 and 5: a deferred error is posted, or the ready command's handler runs. -/
theorem tickCommand_ready {s : State} (hkept : Kept s) (h : TransferReady s) (hm : s.misuse = false)
    (htrigger : s.sched.trigger ≠ none) (hunload : s.sched.unloadPending = false) :
    TransferReady (tickCommand { enterTick s with status := statusInterrupt (enterTick s).status }) := by
  unfold tickCommand
  split
  · exact transferReady_of_unarmed (.inl rfl)
  · rename_i hp
    have herr : s.xfer.nextInterruptIsErr = 0x00 := noError_of_not_pending hkept.error hp
    obtain ⟨hcount, c, hc, hready⟩ := (h hm).2 ⟨Option.isSome_iff_ne_none.mpr htrigger, hunload, herr⟩
    split
    · rename_i c' hc'
      obtain rfl : c = c' := Option.some.inj (hc.symm.trans hc')
      exact transferReady_runTick (interrupted_kept hkept hunload herr) ⟨hc, hcount⟩ (.inl rfl) hready
    · exact transferReady_of_unarmed (.inl rfl)

/-- R307: an early tick is misuse; a due one finds its command ready and leaves it so. -/
theorem tick_ready {s : State} (hkept : Kept s) (h : TransferReady s) : TransferReady (tick s) := by
  have hmisuse := (tick_frame s).2.2.2
  by_cases hbad : (s.misuse || tickIsEarly s) = true
  · exact transferReady_of_misuse (hmisuse.trans hbad)
  · obtain ⟨hm, hearly⟩ : s.misuse = false ∧ tickIsEarly s = false := by simpa using hbad
    have htrigger : s.sched.trigger ≠ none := by
      intro hn
      simp [tickIsEarly, hn] at hearly
    unfold tick
    dsimp only
    split
    · exact motorStep_ready h hm htrigger
    · rename_i hw
      have hquiet : ¬ (s.cfg.motorModelEnabled && motorHasWork s) = true := hw
      rw [scheduleUnload_eq]
      exact transferReady_unloadScheduled (tickCommand_ready hkept h hm htrigger
        (unloadPending_of_no_work hkept.sched (Bool.eq_false_iff.mpr hquiet)))

/-! The shell (R720 to R722). -/

theorem runShell_sched (op : ShellOp) (s : State) : (runShell op s).sched = s.sched := by
  cases op with
  | loadFSD d bytes path => unfold runShell; dsimp only; split <;> rfl
  | _ => rfl

/-- R722: a shell operation while the block is busy is misuse; otherwise no command's tick is armed. -/
theorem runShell_ready (op : ShellOp) (s : State) : TransferReady (runShell op s) := by
  cases hbusy : busy s with
  | true => exact transferReady_of_misuse (by rw [(runShell_misuse op s).1, hbusy, Bool.or_true])
  | false =>
    refine transferReady_of_unarmed ?_
    unfold Unarmed
    rw [runShell_sched]
    exact unarmed_of_not_busy hbusy

/-! Every host call. -/

/-- Well kept and ready. -/
def KeptReady (s : State) : Prop := Kept s ∧ TransferReady s

theorem reads_ready {s : State} (h : TransferReady s) :
    TransferReady (readStatus s) ∧ TransferReady (readResultReg s) ∧ TransferReady (readData s) ∧
      TransferReady (readOther s) := by
  obtain ⟨⟨_, _, _, h1⟩, ⟨_, _, _, h2⟩, ⟨_, _, _, h3⟩, ⟨_, _, _, h4⟩⟩ := reads_touch s
  rw [h1, h2, h3, h4]
  exact ⟨h.congr id rfl rfl rfl rfl, h.congr id rfl rfl rfl rfl, h.congr id rfl rfl rfl rfl,
    h.congr id rfl rfl rfl rfl⟩

theorem keptReady_callRule : CallRule (fun s u => KeptReady s → KeptReady u) where
  trans h1 h2 h := h2 (h1 h)
  reads _ := ⟨fun ⟨hk, h⟩ => ⟨(reads_kept hk).1, (reads_ready h).1⟩,
    fun ⟨hk, h⟩ => ⟨(reads_kept hk).2.1, (reads_ready h).2.1⟩,
    fun ⟨hk, h⟩ => ⟨(reads_kept hk).2.2.1, (reads_ready h).2.2.1⟩⟩
  command v _ := fun ⟨hk, h⟩ => ⟨commandWrite_kept v hk, commandWrite_ready v h⟩
  param v _ := fun ⟨hk, h⟩ => ⟨paramWrite_kept v hk, paramWrite_ready v hk h⟩
  data v _ := fun ⟨hk, h⟩ => ⟨dataWrite_kept v hk, writeWindow_ready h (h.congr id rfl rfl rfl rfl)⟩
  refl _ h := h
  accept c rest s := fun ⟨hk, h⟩ => ⟨kept_callRule.accept c rest s hk, h.congr id rfl rfl rfl rfl⟩
  readOther _ := fun ⟨hk, h⟩ => ⟨(reads_kept hk).2.2.2, (reads_ready h).2.2.2⟩
  otherWrite _ := fun ⟨hk, h⟩ => ⟨writeWindow_kept hk hk, writeWindow_ready h h⟩
  reset _ := fun ⟨hk, h⟩ => ⟨resetWrite_kept hk, resetWrite_ready h⟩
  tick _ := fun ⟨hk, h⟩ => ⟨tick_kept hk, tick_ready hk h⟩
  shell op s := fun ⟨hk, _⟩ => ⟨runShell_kept op hk, runShell_ready op s⟩

/-- Settles O53: every host call from a well-kept ready state answers a ready one. -/
theorem withoutMisuseEveryTransferIsReady : Obligations.WithoutMisuseEveryTransferIsReady :=
  fun _ _ hk h hstep => (keptReady_callRule.step hstep ⟨hk, h⟩).2

/-! What a ready command's tick finds (R51, R101). -/

/-- A ready transfer has the byte it is to move, and every record a lookup answers has a sector. -/
theorem SectorReady.exists_byte {s : State} (h : SectorReady s) (hdisc : DiscKept s) :
    ∃ a i x b, At s a i x ∧ discRead s ⟨a, i, s.xfer.byteIndex⟩ = some b ∧
      ∀ id p r, findSector (trackAt s a) id p = some r → ∃ y, (trackAt s a).sectorAt r = some y := by
  obtain ⟨a, i, x, hat, -, -, hbyte, hsize⟩ := h
  refine ⟨a, i, x, _, hat, discRead_of_at s a i _ x hat.2.2 (Nat.lt_of_lt_of_le hbyte hsize), fun id p r hr => ?_⟩
  obtain ⟨y, hy, -⟩ := findSector_some _ id p r (hdisc a) hr
  exact ⟨y, hy⟩

/-- A ready format has the sector it is to fill. -/
theorem FormatReady.exists_sector {s : State} (h : FormatReady s) (hdisc : DiscKept s) : ∃ a i x, At s a i x := by
  obtain ⟨a, i, ha, hi, hten, -, hlt, -⟩ := h
  obtain ⟨x, hx⟩ := (hdisc a).exists_sectorAt _ i (Nat.lt_of_lt_of_le hlt hten)
  exact ⟨a, i, x, ha, hi, hx⟩

/-- A ready Read ID has the ID field's byte it is to report. -/
theorem ReadIdReady.exists_byte {s : State} (h : ReadIdReady s) (hdisc : DiscKept s) :
    ∃ a x b, s.xfer.curTrack = some a ∧ 0 < (trackAt s a).nSectors ∧
      (trackAt s a).sectorAt (s.pos.positionInTrack % (trackAt s a).nSectors) = some x ∧
      [x.id.track, x.id.head, x.id.sector, x.id.sizeCode][s.xfer.byteIndex]? = some b := by
  obtain ⟨a, ha, hn, hbyte⟩ := h
  obtain ⟨x, hx⟩ := (hdisc a).exists_sectorAt _ _ (Nat.mod_lt s.pos.positionInTrack hn)
  exact ⟨a, x, _, ha, hn, hx, List.getElem?_eq_getElem hbyte⟩

/-- Settles O55: at a handler's tick the latched row is the one that armed it, and its readiness names what it finds. -/
theorem withoutMisuseNoTickMeetsAMissingByte : Obligations.WithoutMisuseNoTickMeetsAMissingByte := by
  intro s c hkept h hm htick hunload hgo
  obtain ⟨t, htrigger, -⟩ := htick.due
  have hworking : Working s := ⟨by rw [htrigger]; rfl, hunload, htick.noError⟩
  obtain ⟨-, c', hc', hready⟩ := (h hm).2 hworking
  obtain rfl : c = c' := Option.some.inj (htick.entry.symm.trans hc')
  refine ⟨fun hc => ?bytes, fun hc => ?format, fun hc => ?readId⟩
  case bytes =>
    have hmoves : movesSectors c = true := by
      rcases hc with hc | rfl
      · simp [movesSectors, hc]
      · rfl
    exact ((handlerReady_iff_of_movesSectors hmoves s).mp hready hgo).exists_byte hkept.disc
  case format =>
    subst hc
    exact FormatReady.exists_sector (hready hgo) hkept.disc
  case readId =>
    subst hc
    exact ReadIdReady.exists_byte (hready hgo) hkept.disc

end Sys2Proof.Machine
end

section
/-! PROOFS. Resolving a track and a sector (20_memory.md section 3; 42_read.md R349). -/

namespace Sys2Proof.Machine

/-- Settles O28: the four steps are `ResolveTrack`'s four assignments. -/
theorem resolveTrackFollowsItsFourSteps : Obligations.ResolveTrackFollowsItsFourSteps := fun _ _ => rfl

/-! The two-track window (R120). -/

/-- R120: the physical track answers first, whatever the next one holds. -/
theorem findTrack_of_here {s : State} {d h : Fin 2} {t : Byte}
    (ha : (trackAt s ⟨d, h, s.pos.physicalTrack⟩).answersTo t = true) :
    findTrack s d h t = some s.pos.physicalTrack :=
  List.find?_cons_of_pos ha

/-- R120: where the physical track does not answer, the next one does if it is there and matches. -/
theorem findTrack_of_next {s : State} {d h : Fin 2} {t : Byte} (p : Fin 80)
    (ha : (trackAt s ⟨d, h, s.pos.physicalTrack⟩).answersTo t = false) :
    findTrack s d h t = some p ↔
      p.val = s.pos.physicalTrack.val + 1 ∧ (trackAt s ⟨d, h, p⟩).answersTo t = true := by
  unfold findTrack trackWindow
  rw [List.find?_cons_of_neg (by rw [ha]; exact Bool.false_ne_true)]
  by_cases hlt : s.pos.physicalTrack.val + 1 < 80
  · rw [dif_pos hlt, List.find?_singleton]
    constructor
    · intro hp
      split at hp
      · rename_i hnext
        obtain rfl := Option.some.inj hp
        exact ⟨rfl, hnext⟩
      · cases hp
    · rintro ⟨hp, hnext⟩
      obtain rfl : p = ⟨s.pos.physicalTrack.val + 1, hlt⟩ := Fin.ext hp
      exact if_pos hnext
  · rw [dif_neg hlt]
    have hp := p.isLt
    refine ⟨fun h => (Option.some_ne_none p h.symm).elim, fun h => ?_⟩
    omega

/-- Settles O29: by whether the physical track answers. -/
theorem trackLookupUsesTheTwoTrackWindow : Obligations.TrackLookupUsesTheTwoTrackWindow := by
  intro s d h t p
  rw [← Track.answersTo_iff, ← Track.answersTo_eq_false]
  cases ha : (trackAt s ⟨d, h, s.pos.physicalTrack⟩).answersTo t with
  | true =>
    rw [findTrack_of_here ha]
    constructor
    · intro hp
      obtain rfl := Option.some.inj hp
      exact ⟨ha, .inl rfl⟩
    · rintro ⟨-, rfl | ⟨-, hf⟩⟩
      · rfl
      · cases hf
  | false =>
    rw [findTrack_of_next p ha]
    constructor
    · rintro ⟨hp, hnext⟩
      exact ⟨hnext, .inr ⟨hp, rfl⟩⟩
    · rintro ⟨hnext, rfl | ⟨hp, -⟩⟩
      · rw [ha] at hnext; cases hnext
      · exact ⟨hp, hnext⟩

/-! The nearest sector (R121). -/

/-- How far round a track of `n` sectors index `j` lies from position `p`. -/
def turnDistance (p n j : Nat) : Nat := if p ≤ j then j - p else n - p + j

/-- R121 scans a track in the order of the distance from the position. -/
theorem scanOrder_pairwise (p n : Nat) :
    (scanOrder p n).Pairwise (fun i j => turnDistance p n i < turnDistance p n j) := by
  unfold scanOrder
  rw [List.pairwise_append]
  refine ⟨(List.pairwise_lt_range' (s := p) (n := n - p) 1).imp_of_mem ?_, List.pairwise_lt_range.imp_of_mem ?_, ?_⟩
  · intro i j hi hj hlt
    rw [List.mem_range'_1] at hi hj
    unfold turnDistance
    rw [if_pos hi.1, if_pos hj.1]
    omega
  · intro i j hi hj hlt
    rw [List.mem_range] at hi hj
    unfold turnDistance
    rw [if_neg (by omega), if_neg (by omega)]
    omega
  · intro i hi j hj
    rw [List.mem_range'_1] at hi
    rw [List.mem_range] at hj
    unfold turnDistance
    rw [if_pos hi.1, if_neg (by omega)]
    omega

/-- The first match in a list in rising order of a measure has the least measure of all the matches. -/
theorem find?_le_of_pairwise {α : Type} {l : List α} {f : α → Bool} {m : α → Nat} {a b : α}
    (hl : l.Pairwise (fun x y => m x < m y)) (ha : l.find? f = some a) (hb : b ∈ l) (hf : f b = true) : m a ≤ m b := by
  obtain ⟨-, before, after, rfl, hbefore⟩ := List.find?_eq_some_iff_append.mp ha
  rcases List.mem_append.mp hb with hb | hb
  · have := hbefore b hb
    rw [hf] at this
    cases this
  · rcases List.mem_cons.mp hb with rfl | hb
    · exact Nat.le_refl _
    · exact Nat.le_of_lt ((List.pairwise_cons.mp (List.pairwise_append.mp hl).2.1).1 b hb)

/-- On a well-kept track the record number found is the first matching index of the scan (R115). -/
theorem findSector_eq_find? {tr : Track} (h : tr.Kept) (x : Byte) (p : Nat) :
    findSector tr x p = (scanOrder p tr.nSectors).find? (fun i => tr.hasIdAt x i) := by
  unfold findSector
  cases hf : (scanOrder p tr.nSectors).find? (fun i => tr.hasIdAt x i) with
  | none => rfl
  | some i =>
    obtain ⟨y, hy, -⟩ := (tr.hasIdAt_iff x i).mp (List.find?_some hf)
    show (tr.sectorAt i).map (fun sec => sec.record) = some i
    obtain ⟨⟨hrecord, -⟩, -⟩ := h.sector _ i y hy
    rw [hy, Option.map_some, hrecord]

/-- Settles O30: the scan meets every index in the order of its distance. -/
theorem sectorLookupFindsTheNearestCopy : Obligations.SectorLookupFindsTheNearestCopy := by
  intro tr x p hkept
  have hmem : ∀ j z, tr.sectorAt j = some z → j ∈ scanOrder p tr.nSectors := fun j z hz =>
    (mem_scanOrder p tr.nSectors j).mpr ((tr.sectorAt_some j z).mp hz).1
  rw [findSector_eq_find? hkept]
  refine ⟨fun r hr => ⟨(tr.hasIdAt_iff x r).mp (List.find?_some hr), fun j z hz hid => ?nearest⟩, fun hnone j z hz => ?none⟩
  case nearest =>
    exact find?_le_of_pairwise (m := turnDistance p tr.nSectors) (scanOrder_pairwise p tr.nSectors) hr (hmem j z hz)
      ((tr.hasIdAt_iff x j).mpr ⟨z, hz, hid⟩)
  case none =>
    intro hid
    exact List.find?_eq_none.mp hnone j (hmem j z hz) ((tr.hasIdAt_iff x j).mpr ⟨z, hz, hid⟩)

end Sys2Proof.Machine
end

section
/-! PROOFS. Whole commands, from the command write to the state their setup leaves (30_encoding.md section 2;
45_immediate.md). A command's setup runs once its bytes are latched, with the unload perhaps scheduled by an earlier
write; a setup that arms nothing leaves that event, and one that arms its tick replaces it. -/

namespace Sys2Proof.Machine

/-! The event that the writes of a command may have scheduled (R270, R304). -/

/-- A state with another trigger and unload mark. -/
def withEvent (trigger : Option Nat) (unload : Bool) (s : State) : State :=
  { s with sched := { s.sched with trigger := trigger, unloadPending := unload } }

/-- The unload scheduling sets an event that depends on the scheduler and the cycle alone. -/
theorem unloadScheduled_withEvent (s : State) :
    ∃ trigger unload, ∀ u : State, u.sched = s.sched → u.now = s.now → unloadScheduled u = withEvent trigger unload u := by
  rcases unloadScheduled_cases s with he | ⟨hm, ht, -⟩
  · refine ⟨s.sched.trigger, s.sched.unloadPending, fun u hs _ => ?_⟩
    have hidle : ¬ (u.sched.motorLoaded = true ∧ u.sched.trigger = none) := by
      rw [hs]
      rintro ⟨hm, ht⟩
      have htrigger := congrArg (fun v : State => v.sched.trigger) he
      simp [unloadScheduled, hm, ht] at htrigger
    unfold unloadScheduled withEvent
    rw [if_neg hidle, ← hs]
  · refine ⟨some (s.now + 4000000), true, fun u hs hn => ?_⟩
    unfold unloadScheduled withEvent
    rw [if_pos ⟨by rw [hs]; exact hm, by rw [hs]; exact ht⟩, hn]

/-- A setup that starts no work neither looks at the event nor changes it. -/
theorem runSetup_withEvent {c : Command} (hc : startsWork c = false) (trigger : Option Nat) (unload : Bool) (s : State) :
    runSetup c (withEvent trigger unload s) = withEvent trigger unload (runSetup c s) := by
  cases c with
  | specify =>
    show specifySetup (withEvent trigger unload s) = withEvent trigger unload (specifySetup s)
    have hkind : specifyKind (withEvent trigger unload s).latch.params[0] = specifyKind s.latch.params[0] := rfl
    unfold specifySetup
    rw [hkind]
    cases specifyKind s.latch.params[0] <;> rfl
  | writeSpecial =>
    show writeSpecialSetup (withEvent trigger unload s) = withEvent trigger unload (writeSpecialSetup s)
    have hreg : specialReg (withEvent trigger unload s).latch.params[0] = specialReg s.latch.params[0] := rfl
    unfold writeSpecialSetup specialWrite
    rw [hreg]
    cases specialReg s.latch.params[0] <;> rfl
  | readStatus | readSpecial | scan | scanDel | write128 | writeDel128 | writeDel | read128 | verifyDel128
  | unknown => rfl
  | write | read | readDel128 | readDel | readId | verify | format | seek => cases hc

/-! From the instruction to its setup. -/

/-- A command's setup runs on the issued state, with some event in place. -/
theorem exec_of_issued {i : Instr} {code : Byte} {ps : List Byte} {row : Command} {s : State}
    (he : s.cfg.fdcEnabled = true) (hencode : encode i = .command (code :: ps)) (hrow : decodeCommand code = row)
    (hcount : ps.length = paramCount s.cfg.unsupportedParams row) :
    ∃ trigger unload, exec i s =
      .next (unloadScheduled (runSetup row (withEvent trigger unload (issued code row ps s)))) := by
  subst hrow
  rw [exec_of_encode hencode, issueCommand_eq code ps s he hcount]
  by_cases hps : ps = []
  · rw [if_pos hps]; exact ⟨s.sched.trigger, s.sched.unloadPending, rfl⟩
  · rw [if_neg hps]
    obtain ⟨trigger, unload, hevent⟩ := unloadScheduled_withEvent (issued code (decodeCommand code) ps s)
    exact ⟨trigger, unload, by rw [hevent _ rfl rfl]⟩

/-- A command whose setup arms its tick: the event before does not matter. -/
theorem exec_of_arming {i : Instr} {code : Byte} {ps : List Byte} {row : Command} {s : State} {delay : Nat} {u : State}
    (he : s.cfg.fdcEnabled = true) (hencode : encode i = .command (code :: ps)) (hrow : decodeCommand code = row)
    (hcount : ps.length = paramCount s.cfg.unsupportedParams row)
    (hsetup : ∀ trigger unload, runSetup row (withEvent trigger unload (issued code row ps s)) = armedAt delay u) :
    exec i s = .next (armedAt delay u) := by
  obtain ⟨trigger, unload, hexec⟩ := exec_of_issued he hencode hrow hcount
  rw [hexec, hsetup, unloadScheduled_armedAt]

/-- A command whose setup starts no work: the unload is scheduled at the end. -/
theorem exec_of_immediate {i : Instr} {code : Byte} {ps : List Byte} {row : Command} {s : State}
    (he : s.cfg.fdcEnabled = true) (hencode : encode i = .command (code :: ps)) (hrow : decodeCommand code = row)
    (hcount : ps.length = paramCount s.cfg.unsupportedParams row) (hwork : startsWork row = false) :
    exec i s = .next (unloadScheduled (runSetup row (issued code row ps s))) := by
  subst hrow
  rw [exec_of_encode hencode, issueCommand_eq code ps s he hcount]
  by_cases hps : ps = []
  · rw [if_pos hps]
  · rw [if_neg hps]
    obtain ⟨trigger, unload, hevent⟩ := unloadScheduled_withEvent (issued code (decodeCommand code) ps s)
    have hend := hevent (runSetup (decodeCommand code) (issued code (decodeCommand code) ps s)) (runSetup_sched hwork _)
      (runSetup_now _ _)
    rw [hevent _ rfl rfl, runSetup_withEvent hwork, ← hend, unloadScheduled_idem]

/-! What a setup reads of the issued state. -/

/-- The parameter buffer after a run of stores (R36, R264). -/
theorem paramsStored_get (ps : List Byte) : ∀ (buf : Vector Byte 16) (k j : Nat) (hj : j < 16),
    (paramsStored buf k ps)[j] = if k ≤ j then (ps[j - k]?).getD buf[j] else buf[j] := by
  induction ps with
  | nil => intro buf k j hj; simp [paramsStored]
  | cons v vs ih =>
    intro buf k j hj
    rw [paramsStored, ih, Vector.getElem_setIfInBounds hj]
    rcases Nat.lt_trichotomy k j with hlt | rfl | hgt
    · have hsub : j - k = (j - (k + 1)) + 1 := by omega
      rw [if_pos (show k + 1 ≤ j from hlt), if_pos (Nat.le_of_lt hlt), if_neg (by omega), hsub]
      rfl
    · rw [if_neg (by omega), if_pos rfl, if_pos (Nat.le_refl _), Nat.sub_self]
      rfl
    · rw [if_neg (by omega), if_neg (by omega), if_neg (by omega)]

/-- The latched parameters are the command's own. -/
theorem issued_param {code : Byte} {c : Command} {ps : List Byte} {s : State} {j : Nat} {v : Byte} (hj : j < 16)
    (hv : ps[j]? = some v) : (issued code c ps s).latch.params[j] = v := by
  show (paramsStored s.latch.params 0 ps)[j] = v
  rw [paramsStored_get ps _ _ _ hj, if_pos (Nat.zero_le j), Nat.sub_zero, hv]
  rfl

/-- R201: the drive a command byte selects. -/
theorem selDrive_issued_commandByte (ss : BitVec 2) (op : BitVec 6) (c : Command) (ps : List Byte) (s : State) :
    selDrive (issued (commandByte ss op) c ps s) = selectedDrive ss := by
  rw [selDrive_issued, commandByte_bit6, commandByte_bit7]
  rfl

/-! Read Drive Status (R221, R500). -/

/-- The drive status byte of a state, by the drive it selects. -/
theorem driveStatusByte_eq (s : State) :
    driveStatusByte s =
      (0x80 : Byte)
        ||| (if s.ctrl.select[1] = true then (0x40 : Byte) else 0x00)
        ||| (if s.ctrl.select[0] = true then (0x04 : Byte) else 0x00)
        ||| (if ∃ d, selDrive s = some d ∧ s.disc[d].writable = false then (0x08 : Byte) else 0x00)
        ||| (if selDrive s ≠ none ∧ s.pos.physicalTrack = 0 then (0x02 : Byte) else 0x00) := by
  unfold driveStatusByte
  cases hd : selDrive s with
  | none => simp
  | some d =>
    simp only [Option.some.injEq, exists_eq_left', ne_eq, reduceCtorEq, not_false_eq_true, true_and]
    cases s.ctrl.select[1] <;> cases s.disc[d].writable <;> rfl

/-- Settles O19: the setup on the issued state, whose select flags are those of the command byte. -/
theorem readDriveStatusReportsTheDrive : Obligations.ReadDriveStatusReportsTheDrive := by
  intro s ss he s0
  rw [exec_of_immediate he rfl (decodeCommand_readStatus ss) rfl rfl]
  have hbyte := driveStatusByte_eq s0
  rw [selDrive_issued_commandByte] at hbyte
  have h1 : s0.ctrl.select[1] = ss.getLsbD 1 := commandByte_bit7 ss 0x2C
  have h0 : s0.ctrl.select[0] = ss.getLsbD 0 := commandByte_bit6 ss 0x2C
  rw [h1, h0] at hbyte
  have hsetup : runSetup .readStatus s0 =
      { s0 with result := driveStatusByte s0, pos := { s0.pos with drdsc := s0.pos.drdsc + 1 } } := rfl
  rw [hsetup, hbyte]
  rfl

/-! Specify (R510 to R512). -/

/-- A vector of two after a write of its first place. -/
theorem vector_two_set_zero {α : Type} (v : Vector α 2) (x : α) : v.set (0 : Fin 2) x = #v[x, v[1]] := by
  ext i hi
  match i with
  | 0 => simp
  | 1 => simp

/-- A vector of two after a write of its second place. -/
theorem vector_two_set_one {α : Type} (v : Vector α 2) (x : α) : v.set (1 : Fin 2) x = #v[v[0], x] := by
  ext i hi
  match i with
  | 0 => simp
  | 1 => simp

/-- What Specify leaves, by its selector (R206, R512). -/
theorem specifySetup_eq (s : State) (p0 p1 p2 p3 : Byte) (h0 : s.latch.params[0] = p0) (h1 : s.latch.params[1] = p1)
    (h2 : s.latch.params[2] = p2) (h3 : s.latch.params[3] = p3) :
    specifySetup s =
      if p0 = 0x0D then { s with ctrl := loadTiming p1 p2 p3 s.ctrl }
      else if p0 = 0x10 then { s with ctrl := loadSurface 0 p1 p2 p3 s.ctrl }
      else if p0 = 0x18 then { s with ctrl := loadSurface 1 p1 p2 p3 s.ctrl }
      else s := by
  unfold specifySetup specifyKind
  rw [h0, h1, h2, h3]
  split_ifs <;> rfl

/-- Settles O20: by the selector. -/
theorem specifyLoadsTheSelectedRegisters : Obligations.SpecifyLoadsTheSelectedRegisters := by
  intro s p0 p1 p2 p3 he s0
  rw [exec_of_immediate he rfl decodeCommand_specify rfl rfl]
  refine congrArg (fun u => Host.Outcome.next (unloadScheduled u)) ?_
  show specifySetup s0 = _
  rw [specifySetup_eq s0 p0 p1 p2 p3 (issued_param _ rfl) (issued_param _ rfl) (issued_param _ rfl) (issued_param _ rfl)]
  unfold loadSurface
  rw [vector_two_set_zero, vector_two_set_zero, vector_two_set_one, vector_two_set_one]
  rfl

/-! The special registers (R220, R520 to R532). -/

/-- R220, R215: the register numbers of the map, and every other one, which names none. -/
theorem specialReg_numbers (r : Byte) :
    (r = 0x06 ∨ r = 0x10 ∨ r = 0x11 ∨ r = 0x12 ∨ r = 0x13 ∨ r = 0x14 ∨ r = 0x17 ∨ r = 0x18 ∨ r = 0x19 ∨ r = 0x1A ∨
        r = 0x22 ∨ r = 0x23) ∨
      (specialReg r = none ∧ r ≠ 0x06 ∧ r ≠ 0x10 ∧ r ≠ 0x11 ∧ r ≠ 0x12 ∧ r ≠ 0x13 ∧ r ≠ 0x14 ∧ r ≠ 0x17 ∧ r ≠ 0x18 ∧
        r ≠ 0x19 ∧ r ≠ 0x1A ∧ r ≠ 0x22 ∧ r ≠ 0x23) := by
  revert r; decide

/-- The value a register number reads (R220, R215). -/
theorem specialRead_eq (r : Byte) (s : State) :
    specialRead r s =
      if r = 0x06 then s.ctrl.scanSector
      else if r = 0x10 then s.ctrl.badTrack[0][0]
      else if r = 0x11 then s.ctrl.badTrack[0][1]
      else if r = 0x12 then s.ctrl.currentTrack[0]
      else if r = 0x13 then s.ctrl.scanCount.extractLsb' 0 8
      else if r = 0x14 then s.ctrl.scanCount.extractLsb' 8 8
      else if r = 0x17 then s.ctrl.mode
      else if r = 0x18 then s.ctrl.badTrack[1][0]
      else if r = 0x19 then s.ctrl.badTrack[1][1]
      else if r = 0x1A then s.ctrl.currentTrack[1]
      else if r = 0x22 then s.ctrl.driveIn
      else if r = 0x23 then s.ctrl.driveOut
      else 0x00 := by
  rcases specialReg_numbers r with (rfl | rfl | rfl | rfl | rfl | rfl | rfl | rfl | rfl | rfl | rfl | rfl) |
    ⟨hnone, h1, h2, h3, h4, h5, h6, h7, h8, h9, h10, h11, h12⟩
  case inr =>
    rw [specialRead, hnone, if_neg h1, if_neg h2, if_neg h3, if_neg h4, if_neg h5, if_neg h6, if_neg h7, if_neg h8,
      if_neg h9, if_neg h10, if_neg h11, if_neg h12]
  all_goals rfl

/-- Settles O21: the register map on the issued state, whose output port the command write has just mirrored. -/
theorem readSpecialReadsTheMappedRegister : Obligations.ReadSpecialReadsTheMappedRegister := by
  intro s ss r he s0
  have hport : s0.ctrl.driveOut = (ss ++ (0 : BitVec 6)) ||| (s.ctrl.driveOut &&& 0x3F) :=
    congrArg (fun b => b ||| (s.ctrl.driveOut &&& 0x3F)) (commandByte_select ss 0x3D)
  have hparam : s0.latch.params[0] = r := issued_param _ rfl
  have hsetup : runSetup .readSpecial s0 = { s0 with result := specialRead s0.latch.params[0] s0 } := rfl
  rw [exec_of_immediate he rfl (decodeCommand_readSpecial ss) rfl rfl, hsetup, hparam, specialRead_eq, hport]
  rfl

/-- What a register number writes (R220, R530 to R532, R215). -/
theorem specialWrite_eq (r v : Byte) (s : State) :
    specialWrite r v s =
      if r = 0x06 then { s with ctrl := { s.ctrl with scanSector := v } }
      else if r = 0x10 then
        { s with ctrl := { s.ctrl with badTrack := s.ctrl.badTrack.set (0 : Fin 2) (s.ctrl.badTrack[0].set (0 : Fin 2) v) } }
      else if r = 0x11 then
        { s with ctrl := { s.ctrl with badTrack := s.ctrl.badTrack.set (0 : Fin 2) (s.ctrl.badTrack[0].set (1 : Fin 2) v) } }
      else if r = 0x12 then
        { s with
          ctrl := { s.ctrl with currentTrack := s.ctrl.currentTrack.set (0 : Fin 2) v }
          pos := { s.pos with
            logicalTrack := v
            usingSpecial := decide (v.toNat ≠ s.pos.physicalTrack.val)
            drdsc := 0 } }
      else if r = 0x13 then { s with ctrl := { s.ctrl with scanCount := s.ctrl.scanCount.extractLsb' 8 8 ++ v } }
      else if r = 0x14 then { s with ctrl := { s.ctrl with scanCount := v ++ s.ctrl.scanCount.extractLsb' 0 8 } }
      else if r = 0x17 then { s with ctrl := { s.ctrl with mode := v } }
      else if r = 0x18 then
        { s with ctrl := { s.ctrl with badTrack := s.ctrl.badTrack.set (1 : Fin 2) (s.ctrl.badTrack[1].set (0 : Fin 2) v) } }
      else if r = 0x19 then
        { s with ctrl := { s.ctrl with badTrack := s.ctrl.badTrack.set (1 : Fin 2) (s.ctrl.badTrack[1].set (1 : Fin 2) v) } }
      else if r = 0x1A then { s with ctrl := { s.ctrl with currentTrack := s.ctrl.currentTrack.set (1 : Fin 2) v } }
      else if r = 0x22 then { s with ctrl := { s.ctrl with driveIn := v } }
      else if r = 0x23 then { s with ctrl := { s.ctrl with driveOut := v, select := #v[v.getLsbD 6, v.getLsbD 7] } }
      else s := by
  rcases specialReg_numbers r with (rfl | rfl | rfl | rfl | rfl | rfl | rfl | rfl | rfl | rfl | rfl | rfl) |
    ⟨hnone, h1, h2, h3, h4, h5, h6, h7, h8, h9, h10, h11, h12⟩
  case inr =>
    rw [specialWrite, hnone, if_neg h1, if_neg h2, if_neg h3, if_neg h4, if_neg h5, if_neg h6, if_neg h7, if_neg h8,
      if_neg h9, if_neg h10, if_neg h11, if_neg h12]
  all_goals rfl

/-- Settles O22: the register map on the issued state. -/
theorem writeSpecialWritesTheMappedRegister : Obligations.WriteSpecialWritesTheMappedRegister := by
  intro s ss r v he s0
  have hreg : s0.latch.params[0] = r := issued_param _ rfl
  have hvalue : s0.latch.params[1] = v := issued_param _ rfl
  have hsetup : runSetup .writeSpecial s0 = specialWrite s0.latch.params[0] s0.latch.params[1] s0 := rfl
  rw [exec_of_immediate he rfl (decodeCommand_writeSpecial ss) rfl rfl, hsetup, hreg, hvalue, specialWrite_eq]
  simp only [vector_two_set_zero, vector_two_set_one]
  rfl

/-! The unsupported commands and the fallback (R540, R545). -/

/-- Settles O23: their setups do nothing. -/
theorem unsupportedCommandsOnlyIssue : Obligations.UnsupportedCommandsOnlyIssue := by
  intro s ss ps code he
  refine ⟨fun h => ?_, fun h => ?_, fun h => ?_, fun h => ?_, fun h => ?_, fun h => ?_, fun h => ?_, fun h => ?_⟩
  · exact exec_of_immediate he rfl (decodeCommand_scan ss) h rfl
  · exact exec_of_immediate he rfl (decodeCommand_scanDel ss) h rfl
  · exact exec_of_immediate he rfl (decodeCommand_write128 ss) h rfl
  · exact exec_of_immediate he rfl (decodeCommand_writeDel128 ss) h rfl
  · exact exec_of_immediate he rfl (decodeCommand_writeDel ss) h rfl
  · exact exec_of_immediate he rfl (decodeCommand_read128 ss) h rfl
  · exact exec_of_immediate he rfl (decodeCommand_verifyDel128 ss) h rfl
  · exact exec_of_immediate he rfl (decodeCommand_fallback code h) rfl rfl

end Sys2Proof.Machine
end

section
/-! PROOFS. The commands that start work, from the command write to the armed tick: the five sector commands, Read ID,
Format and Seek (42_read.md section 1; 43_write_format.md; 44_id_verify_seek.md). -/

namespace Sys2Proof.Machine

/-! The five sector commands in one form (R350, R360, R365, R370, R400, R470). -/

/-- What a sector command does after its setup has found the sector. -/
def sectorNext (c : Command) (u : State) : State :=
  match c with
  | .write => arm Config.byteTime { u with xfer := { u.xfer with firstWriteInterrupt := true } }
  | .verify => arm Config.shortDelay { u with result := (currentSector u).error }
  | _ => arm Config.byteTime u

/-- The sector setup of a form, in a state. -/
def SectorForm.setup (f : SectorForm) (s : State) : Except State State := sectorSetup f.t f.sec f.v f.needWritable s

/-- The instruction `i` runs as its form `f` says: its encoding, its row, its select bits and its row's setup, on every
state whose buffer holds the form's parameters. -/
structure SectorForm.Runs (f : SectorForm) (i : Instr) : Prop where
  encode : encode i = .command (f.code :: f.params)
  row : decodeCommand f.code = f.command
  count : ∀ n, f.params.length = paramCount n f.command
  select : ∃ op, f.code = commandByte f.ss op
  found : ∀ s u, (∀ (j : Nat) (hj : j < 16) v, f.params[j]? = some v → s.latch.params[j] = v) →
    f.setup s = .ok u → runSetup f.command s = sectorNext f.command u
  raised : ∀ s u, (∀ (j : Nat) (hj : j < 16) v, f.params[j]? = some v → s.latch.params[j] = v) →
    f.setup s = .error u → runSetup f.command s = u

/-- A setup that is `SectorSetup` on the first three parameters and then `next`. -/
theorem sectorForm_setup_of_three {s : State} {t sec v : Byte} {nw : Bool} {next : State → State}
    (hparams : ∀ (j : Nat) (hj : j < 16) w, [t, sec, v][j]? = some w → s.latch.params[j] = w) :
    (∀ u, sectorSetup t sec v nw s = .ok u →
        (match sectorSetup s.latch.params[0] s.latch.params[1] s.latch.params[2] nw s with
          | .ok s1 => next s1
          | .error s1 => s1) = next u) ∧
      ∀ u, sectorSetup t sec v nw s = .error u →
        (match sectorSetup s.latch.params[0] s.latch.params[1] s.latch.params[2] nw s with
          | .ok s1 => next s1
          | .error s1 => s1) = u := by
  rw [hparams 0 (by decide) t rfl, hparams 1 (by decide) sec rfl, hparams 2 (by decide) v rfl]
  exact ⟨fun u hu => by rw [hu], fun u hu => by rw [hu]⟩

theorem sectorForm_runs {i : Instr} {f : SectorForm} (h : sectorForm i = some f) : f.Runs i := by
  cases i with
  | read ss t sec v =>
    cases h
    exact ⟨rfl, decodeCommand_read ss, fun _ => rfl, ⟨_, rfl⟩, fun s u hp => (sectorForm_setup_of_three hp).1 u,
      fun s u hp => (sectorForm_setup_of_three hp).2 u⟩
  | readdel ss t sec v =>
    cases h
    exact ⟨rfl, decodeCommand_readDel ss, fun _ => rfl, ⟨_, rfl⟩, fun s u hp => (sectorForm_setup_of_three hp).1 u,
      fun s u hp => (sectorForm_setup_of_three hp).2 u⟩
  | verify ss t sec v =>
    cases h
    exact ⟨rfl, decodeCommand_verify ss, fun _ => rfl, ⟨_, rfl⟩, fun s u hp => (sectorForm_setup_of_three hp).1 u,
      fun s u hp => (sectorForm_setup_of_three hp).2 u⟩
  | write ss t sec v =>
    cases h
    exact ⟨rfl, decodeCommand_write ss, fun _ => rfl, ⟨_, rfl⟩, fun s u hp => (sectorForm_setup_of_three hp).1 u,
      fun s u hp => (sectorForm_setup_of_three hp).2 u⟩
  | readdel128 ss t sec =>
    cases h
    have hsetup : ∀ s : State, (∀ (j : Nat) (hj : j < 16) v, [t, sec][j]? = some v → s.latch.params[j] = v) →
        runSetup .readDel128 s = match sectorSetup t sec 0x01 false s with
          | .ok s1 => arm Config.byteTime s1
          | .error s1 => s1 := fun s hp => by
      show readSetup s.latch.params[0] s.latch.params[1] 0x01 s = _
      rw [hp 0 (by decide) t rfl, hp 1 (by decide) sec rfl, readSetup] <;> rfl
    exact ⟨rfl, decodeCommand_readDel128 ss, fun _ => rfl, ⟨_, rfl⟩,
      fun s u hp (hu : sectorSetup t sec 0x01 false s = .ok u) => by
        show runSetup .readDel128 s = _
        rw [hsetup s hp, hu]; rfl,
      fun s u hp (hu : sectorSetup t sec 0x01 false s = .error u) => by
        show runSetup .readDel128 s = _
        rw [hsetup s hp, hu]⟩
  | _ => cases h

/-! The state in which the setup runs. -/

/-- What a setup's checks read of the issued state, whatever event is in place. -/
theorem issuedEvent_reads {f : SectorForm} {i : Instr} (hruns : f.Runs i) (trigger : Option Nat) (unload : Bool)
    (s : State) :
    selDrive (withEvent trigger unload (issued f.code f.command f.params s)) = selectedDrive f.ss ∧
      selHead (withEvent trigger unload (issued f.code f.command f.params s)) = selHead s := by
  obtain ⟨op, hop⟩ := hruns.select
  refine ⟨?_, selHead_issued f.code f.command f.params s⟩
  rw [hop]
  exact selDrive_issued_commandByte f.ss op f.command f.params s

/-- A sector command whose setup, on the issued state with any event in place, is known to find its sector. -/
theorem exec_of_found {i : Instr} {f : SectorForm} {s u : State} {delay : Nat} {w : State}
    (he : s.cfg.fdcEnabled = true) (hruns : f.Runs i)
    (hsetup : ∀ trigger unload, f.setup (withEvent trigger unload (issued f.code f.command f.params s)) =
      .ok (withEvent trigger unload u))
    (hnext : ∀ trigger unload, sectorNext f.command (withEvent trigger unload u) = armedAt delay w) :
    exec i s = .next (armedAt delay w) := by
  refine exec_of_arming he hruns.encode hruns.row (hruns.count _) fun trigger unload => ?_
  rw [← hnext trigger unload]
  exact hruns.found _ _ (fun _ hj _ hv => issued_param hj hv) (hsetup trigger unload)

/-- A sector command whose setup raises an error on the issued state, whatever event is in place. -/
theorem exec_of_raised {i : Instr} {f : SectorForm} {s u : State} {code : Byte} (he : s.cfg.fdcEnabled = true)
    (hruns : f.Runs i)
    (hsetup : ∀ trigger unload, f.setup (withEvent trigger unload (issued f.code f.command f.params s)) =
      .error (raiseError code (startWork (withEvent trigger unload u)))) :
    exec i s = .next (setupRaised code u) :=
  exec_of_arming he hruns.encode hruns.row (hruns.count _) fun trigger unload =>
    hruns.raised _ _ (fun _ hj _ hv => issued_param hj hv) (hsetup trigger unload)

/-! The sector is found (R350). -/

/-- The setup on the issued state finds what `Finds` names. -/
theorem setup_of_finds {i : Instr} {f : SectorForm} {s : State} {a : TrackAddr} {r : Nat} {x : Sector}
    (hruns : f.Runs i) (h : Finds s f a r x) (trigger : Option Nat) (unload : Bool) :
    f.setup (withEvent trigger unload (issued f.code f.command f.params s)) =
      .ok (withEvent trigger unload (sectorStarted f a r x (issued f.code f.command f.params s))) := by
  obtain ⟨drive, head, track⟩ := a
  obtain ⟨hdrive, hwritable, rfl, htrack, hreadable, hsector, hthere⟩ := h
  obtain ⟨hsel, hhead⟩ := issuedEvent_reads hruns trigger unload s
  have hhead' : selHead (resolveTrack f.t (startWork (withEvent trigger unload (issued f.code f.command f.params s)))) =
      selHead s := hhead
  rw [SectorForm.setup, sectorSetup_of_drive _ _ _ _ _ drive (hsel.trans hdrive) hwritable,
    setupOnDrive_of_found drive f.t f.sec f.v _ track r x
      (by rw [hhead', ← htrack]; exact findTrack_congr _ _ _ _ _ rfl rfl)
      (by rw [hhead']; exact hreadable) (by rw [hhead']; exact hsector) (by rw [hhead']; exact hthere), hhead']
  rfl

/-- Settles O24: the read rows arm their first tick where the setup has found the sector. -/
theorem readCommandsStartAtTheSectorFound : Obligations.ReadCommandsStartAtTheSectorFound := by
  intro s i f a r x he hf hread h
  have hruns := sectorForm_runs hf
  refine exec_of_found he hruns (setup_of_finds hruns h) fun trigger unload => ?_
  cases hc : f.command with
  | read | readDel | readDel128 => rfl
  | _ => rw [hc] at hread; cases hread

/-- Settles O25: Write Data also marks its first interrupt. -/
theorem writeDataStartsAtTheSectorFound : Obligations.WriteDataStartsAtTheSectorFound := by
  intro s ss t sec v f a r x he hf h
  have hruns := sectorForm_runs hf
  refine exec_of_found he hruns (setup_of_finds hruns h) fun trigger unload => ?_
  cases hf
  rfl

/-- Settles O26: Verify shows the error of the sector that has become the current one. -/
theorem verifyShowsTheStoredErrorOfTheSectorFound : Obligations.VerifyShowsTheStoredErrorOfTheSectorFound := by
  intro s ss t sec v f a r x he hf h
  have hruns := sectorForm_runs hf
  refine exec_of_found he hruns (setup_of_finds hruns h) fun trigger unload => ?_
  have hcurrent : currentSector (withEvent trigger unload (sectorStarted f a r x (issued f.code f.command f.params s))) =
      x := currentSector_of_at _ a r x ⟨rfl, rfl, h.there⟩
  have hc : f.command = .verify := by cases hf; rfl
  rw [hc] at hcurrent ⊢
  unfold sectorNext
  dsimp only
  rw [hcurrent]
  rfl

/-! The errors, in the order of the checks (R350, R603). -/

/-- Settles O27: each check that fails ends the setup with its code, in the state the checks before it left. -/
theorem sectorCommandSetupErrorsInOrder : Obligations.SectorCommandSetupErrorsInOrder := by
  intro s i f he hf s0 s1
  have hruns := sectorForm_runs hf
  have hreads := fun trigger unload => issuedEvent_reads hruns trigger unload s
  refine ⟨fun hnone => ?noDrive, fun d hd => ⟨fun hneed hw => ?notWritable, fun hw => ⟨fun hnone => ?noTrack,
    fun p hp => ⟨fun hr => ?notReadable, fun hr hnone => ?noSector⟩⟩⟩⟩
  case noDrive =>
    exact exec_of_raised he hruns fun trigger unload =>
      sectorSetup_no_drive _ _ _ _ _ ((hreads trigger unload).1.trans hnone)
  case notWritable =>
    refine exec_of_raised he hruns fun trigger unload => ?_
    rw [SectorForm.setup, hneed]
    exact sectorSetup_not_writable _ _ _ _ d ((hreads trigger unload).1.trans hd) hw
  all_goals
    refine exec_of_raised he hruns fun trigger unload => ?_
    obtain ⟨hsel, hhead⟩ := hreads trigger unload
    have hhead' : selHead (resolveTrack f.t (startWork
        (withEvent trigger unload (issued f.code f.command f.params s)))) = selHead s := hhead
    have hlookup : ∀ o, findTrack (resolveTrack f.t s) d (selHead s) f.t = o →
        findTrack (resolveTrack f.t (startWork (withEvent trigger unload (issued f.code f.command f.params s)))) d
          (selHead (resolveTrack f.t (startWork
            (withEvent trigger unload (issued f.code f.command f.params s))))) f.t = o := fun o ho => by
      rw [hhead', ← ho]; exact findTrack_congr _ _ _ _ _ rfl rfl
    rw [SectorForm.setup, sectorSetup_of_drive _ _ _ _ _ d (hsel.trans hd) hw]
  case noTrack => exact setupOnDrive_no_track d _ _ _ _ (hlookup none hnone)
  case notReadable =>
    exact setupOnDrive_not_readable d _ _ _ _ p (hlookup _ hp) (by rw [hhead']; exact hr)
  case noSector =>
    exact setupOnDrive_no_sector d _ _ _ _ p (hlookup _ hp) (by rw [hhead']; exact hr) (by rw [hhead']; exact hnone)

/-! Read ID (R205, R450). -/

/-- Settles O31: the two errors and the start, by what the drive and the track lookup answer. -/
theorem readIdStartsAtTheTrackFound : Obligations.ReadIdStartsAtTheTrackFound := by
  intro s ss t p1 n he s0 s1
  have hsetup : ∀ trigger unload, runSetup .readId (withEvent trigger unload s0) =
      match selectedDrive ss with
      | none => raiseError errNotReady (startWork (withEvent trigger unload s0))
      | some d => readIdOnDrive d t n (resolveTrack t (startWork (withEvent trigger unload s0))) := by
    intro trigger unload
    have hsel : selDrive (withEvent trigger unload s0) = selectedDrive ss := selDrive_issued_commandByte ss 0x1B .readId [t, p1, n] s
    have hp0 : (withEvent trigger unload s0).latch.params[0] = t := issued_param _ rfl
    have hp2 : (withEvent trigger unload s0).latch.params[2] = n := issued_param _ rfl
    show readIdSetup _ = _
    rw [readIdSetup, hsel, hp0, hp2] <;> rfl
  have hexec := fun delay u => exec_of_arming (i := .readid ss t p1 n) (delay := delay) (u := u) he rfl
    (decodeCommand_readId ss) rfl
  have hlookup : ∀ trigger unload d o, findTrack (resolveTrack t s) d (selHead s) t = o →
      findTrack (resolveTrack t (startWork (withEvent trigger unload s0))) d
        (selHead (resolveTrack t (startWork (withEvent trigger unload s0)))) t = o := fun trigger unload d o ho => by
    have hhead : selHead (resolveTrack t (startWork (withEvent trigger unload s0))) = selHead s :=
      selHead_issued (commandByte ss 0x1B) .readId [t, p1, n] s
    rw [hhead, ← ho]; exact findTrack_congr _ _ _ _ _ rfl rfl
  refine ⟨fun hnone => ?noDrive, fun d hd => ⟨fun hnone => ?noTrack, fun p hp => ?start⟩⟩
  case noDrive => exact hexec _ _ fun trigger unload => by rw [hsetup, hnone]; rfl
  case noTrack =>
    refine hexec _ _ fun trigger unload => ?_
    rw [hsetup, hd]
    dsimp only
    rw [readIdOnDrive, hlookup trigger unload d none hnone]
    rfl
  case start =>
    refine hexec _ _ fun trigger unload => ?_
    have hhead : selHead (resolveTrack t (startWork (withEvent trigger unload s0))) = selHead s :=
      selHead_issued (commandByte ss 0x1B) .readId [t, p1, n] s
    have hcount : ((idFieldCount n : Nat) : Int) = if n = 0 then 32 else ((n.toNat : Nat) : Int) := by
      unfold idFieldCount; split <;> rfl
    rw [hsetup, hd, ← hcount]
    dsimp only
    rw [readIdOnDrive, hlookup trigger unload d _ hp, hhead]
    rfl

/-! Format (R421). -/

/-- Settles O32: the checks in their order, and the start on the physical track. -/
theorem formatChecksInOrderAndStarts : Obligations.FormatChecksInOrderAndStarts := by
  intro s ss t g3 v g5 g1 he i s0 s1
  have hsetup : ∀ trigger unload, runSetup .format (withEvent trigger unload s0) =
      match selectedDrive ss with
      | none => raiseError errNotReady (startWork (withEvent trigger unload s0))
      | some d =>
        if !s.disc[d].writable then raiseError errWriteProtect (startWork (withEvent trigger unload s0))
        else if v ≠ formatGeometry then raiseError errNotPresent (startWork (withEvent trigger unload s0))
        else formatOnDrive d t (resolveTrack t (startWork (withEvent trigger unload s0))) := by
    intro trigger unload
    have hsel : selDrive (withEvent trigger unload s0) = selectedDrive ss := 
      selDrive_issued_commandByte ss 0x23 .format [t, g3, v, g5, g1] s
    have hp0 : (withEvent trigger unload s0).latch.params[0] = t := issued_param _ rfl
    have hp2 : (withEvent trigger unload s0).latch.params[2] = v := issued_param _ rfl
    show formatSetup _ = _
    rw [formatSetup, hsel, hp0, hp2] <;> rfl
  have hexec := fun delay u => exec_of_arming (i := i) (delay := delay) (u := u) he rfl (decodeCommand_format ss) rfl
  refine ⟨fun hnone => hexec _ _ fun trigger unload => ?noDrive, fun d hd =>
    ⟨fun hw => hexec _ _ fun trigger unload => ?notWritable, fun hw => ⟨fun hv => hexec _ _ fun trigger unload => ?geometry,
      fun hv => ⟨fun hn => hexec _ _ fun trigger unload => ?fewSectors,
        fun hn => hexec _ _ fun trigger unload => ?start⟩⟩⟩⟩
  case noDrive => rw [hsetup, hnone]; rfl
  all_goals
    rw [hsetup, hd]
    dsimp only
    rw [hw]
  case notWritable => rfl
  case geometry => rw [if_neg (by decide), if_pos (c := v ≠ formatGeometry) hv]; rfl
  all_goals
    have hhead : selHead (resolveTrack t (startWork (withEvent trigger unload s0))) = selHead s :=
      selHead_issued (commandByte ss 0x23) .format [t, g3, v, g5, g1] s
    rw [if_neg (by decide), if_neg (c := v ≠ formatGeometry) (not_not_intro hv), formatOnDrive, hhead]
  case fewSectors => exact if_pos hn
  case start => exact if_neg (Nat.not_lt.mpr hn)

/-! Seek (R480). -/

/-- Settles O33: the head moves to the operand's track, clamped at the last one. -/
theorem seekMovesTheHeadAndLatchesTheTrack : Obligations.SeekMovesTheHeadAndLatchesTheTrack := by
  intro s ss t he s0
  have hsetup : ∀ trigger unload, runSetup .seek (withEvent trigger unload s0) =
      match selectedDrive ss with
      | none => raiseError errNotReady (startWork (withEvent trigger unload s0))
      | some d => arm Config.shortDelay (seekTo d t (startWork (withEvent trigger unload s0))) := by
    intro trigger unload
    have hsel : selDrive (withEvent trigger unload s0) = selectedDrive ss := selDrive_issued_commandByte ss 0x29 .seek [t] s
    have hp0 : (withEvent trigger unload s0).latch.params[0] = t := issued_param _ rfl
    show seekSetup _ = _
    rw [seekSetup, hsel, hp0] <;> rfl
  have hexec := fun delay u => exec_of_arming (i := .seek ss t) (delay := delay) (u := u) he rfl
    (decodeCommand_seek ss) rfl
  refine ⟨fun hnone => hexec _ _ fun trigger unload => ?noDrive, fun d hd => hexec _ _ fun trigger unload => ?start⟩
  case noDrive => rw [hsetup, hnone]; rfl
  case start => rw [hsetup, hd]; rfl

end Sys2Proof.Machine
end

section
/-! PROOFS. The tick (41_scheduler.md): a motor step, an early tick, a tick without a handler, and the tick handlers
that leave the disc model alone: Read, Read ID, Verify and Seek (42_read.md section 3; 44_id_verify_seek.md). -/

namespace Sys2Proof.Machine

/-! The motor step (R320 to R323). -/

/-- A due tick with motor work is that work. -/
theorem exec_tick_of_motor {s : State} (hd : TickDue s) (hm : s.cfg.motorModelEnabled = true)
    (hw : motorHasWork s = true) : exec .tick s = .next (motorStep (ticked s)) :=
  congrArg Host.Outcome.next (tick_of_motor s hd hm hw)

/-- A selected drive whose motor is off, or whose head is elsewhere, is motor work. -/
theorem motorHasWork_of_drive {s : State} {d : Fin 2} (hd : selDrive s = some d)
    (h : s.sched.motorLoaded = false ∨ s.sched.headPosition[d] ≠ s.pos.physicalTrack.val) : motorHasWork s = true := by
  unfold motorHasWork
  rw [hd]
  rcases h with h | h
  · simp [h]
  · have hmove : (s.sched.headPosition[d] != s.pos.physicalTrack.val) = true := bne_iff_ne.mpr h
    dsimp only
    rw [hmove, Bool.or_true, Bool.or_true]

/-- The motor step of a drive whose motor is loaded, by the distance its head has to go. -/
theorem motorStep_of_distance {s : State} {d : Fin 2} {delta : Nat} (hunload : s.sched.unloadPending = false)
    (hd : selDrive s = some d) (hloaded : s.sched.motorLoaded = true)
    (hdelta : s.sched.headPosition[d] + delta = s.pos.physicalTrack.val ∨
      s.pos.physicalTrack.val + delta = s.sched.headPosition[d]) :
    motorStep s =
      armedAt (stepDelay delta)
        { s with sched := { s.sched with headPosition := s.sched.headPosition.set d s.pos.physicalTrack.val } } := by
  have htracks : trackDelta s d = delta := by unfold trackDelta; omega
  unfold motorStep
  rw [if_neg (ne_true_of_eq_false hunload), hd]
  dsimp only
  rw [if_pos hloaded, stepHead, htracks]
  rfl

/-- Settles O35: the unload comes first, then the head load, then the head's movement. -/
theorem tickDoesOneMotorStep : Obligations.TickDoesOneMotorStep := by
  intro s hdue hmodel
  refine ⟨fun hunload => ?unload, fun hunload d hd => ⟨fun hloaded => ?load, fun hloaded => ?step⟩⟩
  case unload =>
    rw [exec_tick_of_motor hdue hmodel (by simp [motorHasWork, hunload])]
    exact congrArg Host.Outcome.next (if_pos hunload)
  case load =>
    rw [exec_tick_of_motor hdue hmodel (motorHasWork_of_drive hd (.inl hloaded))]
    have hd' : selDrive (ticked s) = some d := hd
    unfold motorStep
    rw [if_neg (show ¬ (ticked s).sched.unloadPending = true from ne_true_of_eq_false hunload), hd']
    exact congrArg Host.Outcome.next (if_neg (ne_true_of_eq_false hloaded))
  case step =>
    have hmove : ∀ delta, 0 < delta →
        (s.sched.headPosition[d] + delta = s.pos.physicalTrack.val ∨
          s.pos.physicalTrack.val + delta = s.sched.headPosition[d]) →
        exec .tick s = .next (motorStep (ticked s)) ∧ motorStep (ticked s) =
          armedAt (stepDelay delta)
            { ticked s with
              sched := { s.sched with
                trigger := none, headPosition := s.sched.headPosition.set d s.pos.physicalTrack.val } } :=
      fun delta hpos hdelta =>
        ⟨exec_tick_of_motor hdue hmodel (motorHasWork_of_drive hd (.inr (by omega))),
          motorStep_of_distance (s := ticked s) hunload hd hloaded hdelta⟩
    refine ⟨fun hone => ?_, fun delta hdelta hmany => ?_⟩
    · obtain ⟨hexec, hstep⟩ := hmove 1 Nat.one_pos hone
      rw [hexec, hstep]
      rfl
    · obtain ⟨hexec, hstep⟩ := hmove delta (Nat.lt_trans Nat.one_pos hdelta) hmany
      rw [hexec, hstep, stepDelay, if_neg (Nat.ne_of_gt hdelta)]
      rfl

/-! A tick before its time (R307), and one without a handler (R306). -/

/-- Settles O37: both ticks enter with the same state, the misuse mark set and nothing armed. -/
theorem earlyTickIsMisuseAndRuns : Obligations.EarlyTickIsMisuseAndRuns := by
  intro s hnot
  have henter : enterTick s =
      enterTick { s with misuse := true, sched := { s.sched with trigger := some s.now } } := by
    unfold enterTick
    rw [tickIsEarly_of_not_due s hnot, Bool.or_true, Bool.true_or]
    rfl
  show Host.Outcome.next (tick s) = Host.Outcome.next (tick _)
  unfold tick
  rw [henter]

/-- A row without a tick handler does nothing at its tick (R306). -/
theorem runTick_of_no_handler {c : Command}
    (hc : c ∉ ([.write, .read, .readDel128, .readDel, .readId, .verify, .format, .seek] : List Command)) (s : State) :
    runTick c s = s := by
  cases c with
  | write | read | readDel128 | readDel | readId | verify | format | seek => exact absurd (by decide) hc
  | _ => rfl

/-- Settles O36: step 4 finds no error, step 5 no handler. -/
theorem tickWithoutHandlerOnlyInterrupts : Obligations.TickWithoutHandlerOnlyInterrupts := by
  intro s hdue hquiet herr hentry
  have hcommand : tickCommand { ticked s with status := s.status ||| 0x08 } =
      { ticked s with status := s.status ||| 0x08 } := by
    have hpending : isPending s.xfer.nextInterruptIsErr = false := by rw [herr]; rfl
    unfold tickCommand
    refine (if_neg (ne_true_of_eq_false hpending)).trans ?_
    split
    · rename_i c hc; exact runTick_of_no_handler (hentry c hc) _
    · rfl
  exact congrArg Host.Outcome.next ((tick_of_quiet s hdue hquiet).trans (congrArg unloadScheduled hcommand))

/-! A tick that runs its row's handler (R305 step 5). -/

/-- The state the tick handler of a due tick runs on: `interrupt_request` set, nothing armed. -/
def atHandler (s : State) : State := { ticked s with status := s.status ||| 0x08 }

/-- A tick whose handler's answer is known; the unload is scheduled after it. -/
theorem exec_of_handler {s u : State} {c : Command} (h : HandlerTick s c) (hrun : runTick c (atHandler s) = u) :
    exec .tick s = .next (unloadScheduled u) :=
  congrArg Host.Outcome.next ((tick_of_handler s c h).trans (congrArg unloadScheduled hrun))

/-- A tick whose handler arms the next tick: no unload is due. -/
theorem exec_of_handler_arming {s u : State} {c : Command} {delay : Nat} (h : HandlerTick s c)
    (hrun : runTick c (atHandler s) = armedAt delay u) : exec .tick s = .next (armedAt delay u) := by
  rw [exec_of_handler h hrun, unloadScheduled_armedAt]

/-- The tick handlers that transfer bytes. -/
def transfers (c : Command) : Bool := isReadCommand c || c == .write || c == .format || c == .readId

/-- The final tick of a transfer (R355). -/
theorem runTick_of_over {c : Command} (hc : transfers c = true) {s : State} (h : s.xfer.sectorsToGo < 0) :
    runTick c s = finalTick s := by
  cases c with
  | read | readDel | readDel128 | write | format | readId => exact if_pos h
  | _ => cases hc

/-- The final tick only reports (R355). -/
theorem exec_of_over {c : Command} (hc : transfers c = true) {s : State} (h : HandlerTick s c)
    (hover : s.xfer.sectorsToGo < 0) : exec .tick s = .next (unloadScheduled { ticked s with status := 0x18 }) :=
  exec_of_handler h (runTick_of_over hc (s := atHandler s) hover)

/-- Settles O46. -/
theorem verifyAndSeekTicksPostSuccess : Obligations.VerifyAndSeekTicksPostSuccess := by
  intro s c h hc
  refine exec_of_handler h ?_
  rcases hc with rfl | rfl
  · rfl
  · rfl

/-! The read tick (R352 to R356). -/

/-- Settles O38: the first of the decision tree's cases that matches, by the stored error. -/
theorem readResultFollowsTheNineCases : Obligations.ReadResultFollowsTheNineCases := by
  intro x len o
  refine ⟨fun he hs => ?clean, fun he hs ho => ?_, fun he hs ho => ?_, fun he h => ?deleted, fun he hs ho => ?_,
    fun he h => ?both, fun he ho hs => ?_, fun he => ?_, fun he => ?_, fun he => ?crc, fun he => ?other⟩
  case deleted =>
    cases o with
    | false => simp [readResult, he, show x.realSize ≠ len by simpa using h]
    | true => simp [readResult, he]
  case both =>
    cases o with
    | false => simp [readResult, he, show x.idSize ≠ len by simpa using h]
    | true => simp [readResult, he]
  case crc =>
    by_cases hs : x.realSize = x.idSize
    · simp [readResult, he, hs]
    · simp [readResult, he, hs]
  case other =>
    simp only [List.mem_cons, List.not_mem_nil, or_false, not_or, BitVec.ofNat_eq_ofNat] at he
    simp [readResult, he]
  all_goals simp [readResult, *]

/-- The rows that read share one tick handler (R354, R370). -/
theorem runTick_of_read {c : Command} (hc : isReadCommand c = true) (s : State) : runTick c s = readTick s := by
  cases c with
  | read | readDel | readDel128 => rfl
  | _ => cases hc

theorem transfers_of_read {c : Command} (hc : isReadCommand c = true) : transfers c = true := by
  unfold transfers; rw [hc]; rfl

/-- The byte at a transfer's address is the one the tick delivers, with its code (R354, R356). -/
theorem deliverByte_of_at {s : State} {a : TrackAddr} {i : Nat} {x : Sector} {b : Byte} (hat : At s a i x)
    (hb : discRead s ⟨a, i, s.xfer.byteIndex⟩ = some b) : deliverByte s = delivered x b s := by
  unfold deliverByte deliveredByte currentResult currentByte
  rw [currentSector_of_at s a i x hat, workByte_of_at s a i x hat, hb]
  rfl

/-- What a read tick does before its sector's end: the interrupt's status is replaced by the byte's. -/
theorem deliverByte_atHandler {s : State} {a : TrackAddr} {i : Nat} {x : Sector} {b : Byte} (hat : At s a i x)
    (hb : discRead s ⟨a, i, s.xfer.byteIndex⟩ = some b) : deliverByte (atHandler s) = delivered x b (ticked s) :=
  deliverByte_of_at (s := atHandler s) hat hb

/-- Settles O39. -/
theorem readTickDeliversOneByte : Obligations.ReadTickDeliversOneByte := by
  intro s c h hc
  refine ⟨exec_of_over (transfers_of_read hc) h, fun a i x b hgo hat hb hinside => ?_⟩
  refine exec_of_handler_arming h ?_
  have hgo' : ¬ (atHandler s).xfer.sectorsToGo < 0 := Int.not_lt.mpr hgo
  rw [runTick_of_read hc, readTick, if_neg hgo', deliverByte_atHandler hat hb]
  exact if_pos hinside

/-- Settles O40: past the sector's last byte the handler looks for the next sector ID from the position after it. -/
theorem readTickAtSectorEndAdvancesOrEnds : Obligations.ReadTickAtSectorEndAdvancesOrEnds := by
  intro s c a i x b h hc hgo hat hb hend s1 next
  have hrun : runTick c (atHandler s) =
      if 0 < s1.xfer.sectorsToGo then nextSector s1 else endTransfer s1 := by
    have hgo' : ¬ (atHandler s).xfer.sectorsToGo < 0 := Int.not_lt.mpr hgo
    have hpass : passSector (delivered x b (ticked s)) = s1 := passSector_eq _ a i x hat
    rw [runTick_of_read hc, readTick, if_neg hgo', deliverByte_atHandler hat hb]
    dsimp only
    rw [if_neg (show ¬ (delivered x b (ticked s)).xfer.byteIndex < (delivered x b (ticked s)).xfer.sectorLength from
      Nat.not_lt.mpr hend), hpass]
  have hcount : s1.xfer.sectorsToGo = s.xfer.sectorsToGo - 1 := rfl
  refine ⟨fun hlast => ?_, fun hmore r y hnext hy => ?_, fun hmore hnext => ?_⟩
  all_goals
    refine exec_of_handler_arming h ?_
    rw [hrun]
  · rw [if_neg (by omega)]; rfl
  · rw [if_pos (by omega), nextSector_of_found s1 a r y hat.1 hnext hy]
  · rw [if_pos (by omega), nextSector_of_missing s1 a hat.1 hnext]; rfl

/-! The Read ID tick (R451, R452). -/

/-- Settles O45: the ID byte at the position is delivered, and after the fourth the field is passed. -/
theorem readIdTickDeliversOneIdByte : Obligations.ReadIdTickDeliversOneIdByte := by
  intro s h
  refine ⟨exec_of_over rfl h, ?_⟩
  intro a x b hgo ha hx hb n s1 s2
  have hn : n ≠ 0 := by
    have := ((trackAt s a).sectorAt_some _ x).1 hx
    exact Nat.ne_of_gt (Nat.lt_of_le_of_lt (Nat.zero_le _) this.1)
  have hwork : workTrack (atHandler s) = a := workTrack_of_some (atHandler s) a ha
  have hindex : readIdIndex (atHandler s) = s.pos.positionInTrack % n := by
    unfold readIdIndex
    rw [hwork]
    exact if_neg hn
  have hdeliver : deliverIdByte (atHandler s) =
      { s1 with xfer := { s.xfer with byteIndex := s.xfer.byteIndex + 1 } } := by
    have hsector : readIdSector (atHandler s) = x := by
      unfold readIdSector
      rw [hwork, hindex, show (trackAt (atHandler s) a).sectorAt _ = some x from hx]
      rfl
    unfold deliverIdByte
    rw [hsector, show x.id.byte? (atHandler s).xfer.byteIndex = some b from hb]
    rfl
  have hpass : passIdField (s.pos.positionInTrack % n) n
      { s1 with xfer := { s.xfer with byteIndex := s.xfer.byteIndex + 1 } } = s2 := by
    unfold passIdField nextPosition
    rw [if_neg hn]
    rfl
  have hrun : runTick .readId (atHandler s) =
      if s.xfer.byteIndex + 1 < 4 then
        arm Config.byteTime { s1 with xfer := { s.xfer with byteIndex := s.xfer.byteIndex + 1 } }
      else if 0 < s2.xfer.sectorsToGo then arm Config.byteTime s2
      else endTransfer { s2 with result := 0x00 } := by
    have hgo' : ¬ (atHandler s).xfer.sectorsToGo < 0 := Int.not_lt.mpr hgo
    show readIdTick _ = _
    rw [readIdTick, if_neg hgo', hdeliver, hindex, hwork]
    dsimp only
    rw [show passIdField _ (trackAt (atHandler s) a).nSectors _ = s2 from hpass]
  have hcount : s2.xfer.sectorsToGo = s.xfer.sectorsToGo - 1 := rfl
  refine ⟨fun hk => ?_, fun hk hmore => ?_, fun hk hlast => ?_⟩
  all_goals
    refine exec_of_handler_arming h ?_
    rw [hrun]
  · rw [if_pos (by omega)]; rfl
  · rw [if_neg (by omega), if_pos (by omega)]; rfl
  · rw [if_neg (by omega), if_neg (by omega)]; rfl

end Sys2Proof.Machine
end

section
/-! PROOFS. The track writeback and the tick handlers that store: Write Data and Format (20_memory.md R140 to R142;
43_write_format.md R402 to R422). -/

namespace Sys2Proof.Machine

/-! The bytes of a writeback (R142). -/

/-- An element of lists of `n` elements each, one after the other. -/
theorem getElem?_flatMap_of_length {α β : Type} (f : α → List β) {n : Nat} (hn : 0 < n) (hf : ∀ x, (f x).length = n)
    (l : List α) (k : Nat) : (l.flatMap f)[k]? = l[k / n]?.bind fun x => (f x)[k % n]? := by
  induction l generalizing k with
  | nil => simp
  | cons x l ih =>
    rw [List.flatMap_cons]
    by_cases hk : k < n
    · rw [List.getElem?_append_left (by rw [hf]; exact hk), Nat.div_eq_of_lt hk, Nat.mod_eq_of_lt hk]
      rfl
    · obtain ⟨m, rfl⟩ := Nat.exists_eq_add_of_le (Nat.not_lt.mp hk)
      rw [List.getElem?_append_right (by rw [hf]; exact Nat.le_add_right _ _), hf, ih, Nat.add_sub_cancel_left,
        Nat.add_div_left _ hn, Nat.add_mod_left]
      rfl

/-- The 2560 bytes of a track's first ten sectors. -/
def trackBytes (tr : Track) : List Byte := (tr.sectors.take 10).flatMap fun sec => Memory.bytesAt sec.data 0 256

theorem writebackBytes_of_writesBack {s : State} {a : TrackAddr} (hk : (trackAt s a).Kept) (h : WritesBack s a) :
    writebackBytes s.disc[a.drive] (trackAt s a) = some (trackBytes (trackAt s a)) := by
  obtain ⟨bs, hbs⟩ := Option.isSome_iff_exists.mp ((writebackBytes_isSome s a hk).mpr h)
  obtain ⟨hkind, hpath, hten, -⟩ := h
  rw [hbs]
  unfold writebackBytes at hbs
  rw [if_neg (not_or.mpr ⟨hkind, hpath⟩), firstTen_of_kept _ hk hten] at hbs
  dsimp only at hbs
  split at hbs
  · exact hbs.symm
  · cases hbs

theorem length_trackBytes {tr : Track} (h : 10 ≤ tr.sectors.length) : (trackBytes tr).length = 2560 := by
  unfold trackBytes
  rw [List.length_flatMap, List.map_congr_left fun sec _ => Memory.length_bytesAt sec.data 0 256, List.map_const',
    List.sum_replicate, List.length_take, Nat.min_eq_left h]
  rfl

/-- Byte `k` of a writeback is byte `k % 256` of sector `k / 256`, on a track whose sectors hold that many bytes. -/
theorem discRead_trackBytes {s : State} {a : TrackAddr} (hk : (trackAt s a).Kept) (h : WritesBack s a) {k : Nat}
    (hlt : k < 2560) : discRead s ⟨a, k / 256, k % 256⟩ = some ((trackBytes (trackAt s a)).getD k 0x00) := by
  obtain ⟨-, -, hten, hsize⟩ := h
  have hi : k / 256 < 10 := by omega
  obtain ⟨x, hx⟩ := hk.exists_sectorAt _ (k / 256) (by omega)
  have hlist := (((trackAt s a).sectorAt_some _ x).1 hx).2
  have hbyte : (trackBytes (trackAt s a))[k]? = some (Memory.read x.data (k % 256)) := by
    unfold trackBytes
    rw [getElem?_flatMap_of_length (n := 256) _ (by decide) (fun _ => Memory.length_bytesAt _ _ _),
      List.getElem?_take_of_lt hi, hlist]
    simp [Memory.bytesAt, Nat.mod_lt]
  rw [discRead_of_at s a _ _ x hx (Nat.lt_of_lt_of_le (Nat.mod_lt _ (by decide)) (hsize _ x hi hlist)),
    List.getD_eq_getElem?_getD, hbyte]
  rfl

/-! What a writeback leaves (R140 to R142). -/

/-- A backing image read after one is replaced. -/
theorem setBacking_get (s : State) (d d' : Fin 2) (f : File) :
    (setBacking s d f).backing[d'] = if d' = d then f else s.backing[d'] := by
  by_cases h : d' = d
  · subst h; simp
  · have hval : (d : Nat) ≠ d' := fun e => h (Fin.ext e.symm)
    rw [if_neg h]
    simp [Vector.getElem_set_ne _ _ hval]

/-- A writeback that reaches the file. -/
theorem writeback_of_writesBack {s : State} {a : TrackAddr} (hdisc : DiscKept s) (hfiles : FilesKept s)
    (h : WritesBack s a) :
    (writeback a s).1 = Config.writebackOk s.draws ∧ WrittenBack s (writeback a s).2 a ∧
      ∀ d, d ≠ a.drive → (writeback a s).2.backing[d] = s.backing[d] := by
  have hlength : (trackBytes (trackAt s a)).length = 2560 :=
    length_trackBytes (by rw [(hdisc a).1]; exact h.2.2.1)
  rw [writeback_of_bytes a s _ (writebackBytes_of_writesBack (hdisc a) h)]
  refine ⟨rfl, ?_, fun d hd => ?_⟩
  · unfold WrittenBack
    rw [setBacking_get, if_pos rfl]
    by_cases hok : Config.writebackOk s.draws = true
    · simp only [if_pos hok, writtenFile, File.write, hlength]
      have hwf : Memory.wf s.backing[a.drive].bytes = true := (Bool.and_eq_true_iff.mp (hfiles a.drive)).1
      refine ⟨trivial, fun k hk => ?_, fun k hk => ?_⟩
      · have hread : discRead (setBacking s a.drive (writtenFile s a (trackBytes (trackAt s a)))) ⟨a, k / 256, k % 256⟩ =
            some ((trackBytes (trackAt s a)).getD k 0x00) :=
          (discRead_congr s _ _ rfl).trans (discRead_trackBytes (hdisc a) h hk)
        refine hread.trans (congrArg some ?_)
        rw [Memory.read_writeBytes _ _ _ _ hwf, if_pos ⟨Nat.le_add_right _ _, by omega⟩, Nat.add_sub_cancel_left]
      · rw [Memory.read_writeBytes _ _ _ _ hwf, if_neg (by omega)]
    · rw [if_neg hok, if_neg hok]
  · rw [setBacking_get, if_neg hd]

/-- A writeback that R142 refuses before the file. -/
theorem writeback_of_not_writesBack {s : State} {a : TrackAddr} (hdisc : DiscKept s) (h : ¬ WritesBack s a) :
    writeback a s = (false, s) := by
  refine writeback_of_refused a s ?_
  have hnone := (writebackBytes_isSome s a (hdisc a)).not.mpr h
  rwa [Bool.not_eq_true, Option.isSome_eq_false_iff, Option.isNone_iff_eq_none] at hnone

/-- Whether and what a writeback writes depends on the disc model, the backing images and the free values alone. -/
theorem writeback_congr {s u : State} (a : TrackAddr) (hdisc : u.disc = s.disc) (hback : u.backing = s.backing)
    (hdraws : u.draws = s.draws) :
    (writeback a u).1 = (writeback a s).1 ∧ (writeback a u).2.backing = (writeback a s).2.backing := by
  have hbytes : writebackBytes u.disc[a.drive] (trackAt u a) = writebackBytes s.disc[a.drive] (trackAt s a) := by
    rw [trackAt_congr s u a hdisc, hdisc]
  cases hb : writebackBytes s.disc[a.drive] (trackAt s a) with
  | none =>
    rw [writeback_of_refused a s hb, writeback_of_refused a u (hbytes.trans hb)]
    exact ⟨rfl, hback⟩
  | some bs =>
    rw [writeback_of_bytes a s bs hb, writeback_of_bytes a u bs (hbytes.trans hb)]
    refine ⟨congrArg Config.writebackOk hdraws, ?_⟩
    simp only [setBacking_backing, writtenFile, hdisc, hback, hdraws]

/-! A tick that stores (R402, R422). -/

/-- `w` is the due tick's state with bytes of the disc model stored, and nothing else of it changed. -/
structure Stored (s w : State) : Prop where
  rest : w = { ticked s with disc := w.disc }
  kept : DiscKept w
  headers : ∀ a, (trackAt w a).headers = (trackAt s a).headers
  attributes : AttributesKept s w

theorem Stored.backing {s w : State} (h : Stored s w) : w.backing = s.backing := by rw [h.rest]; rfl

theorem Stored.draws {s w : State} (h : Stored s w) : w.draws = (ticked s).draws := by rw [h.rest]

/-- A store leaves whether a writeback reaches the file. -/
theorem Stored.writesBack_iff {s w : State} (h : Stored s w) (a : TrackAddr) : WritesBack w a ↔ WritesBack s a := by
  obtain ⟨hpath, hkind, -⟩ := h.attributes a.drive
  have hsize : ∀ i : Nat, (trackAt w a).sectors[i]?.map Sector.realSize = (trackAt s a).sectors[i]?.map Sector.realSize := by
    intro i
    have hsec := congrArg (fun t : Track => t.sectors[i]?.map Sector.realSize) (h.headers a)
    simpa [Track.headers, Function.comp_def] using hsec
  unfold WritesBack
  rw [hpath, hkind, Track.nSectors_of_headers _ _ (h.headers a)]
  refine and_congr_right fun _ => and_congr_right fun _ => and_congr_right fun _ => ?_
  have hall : ∀ tr : Track, (∀ i sec, i < 10 → tr.sectors[i]? = some sec → 256 ≤ sec.realSize) ↔
      ∀ i n, i < 10 → tr.sectors[i]?.map Sector.realSize = some n → 256 ≤ n := by
    intro tr
    refine forall_congr' fun i => ⟨fun hi n hlt hn => ?_, fun hi sec hlt hsec => ?_⟩
    · obtain ⟨sec, hsec, rfl⟩ := Option.map_eq_some_iff.mp hn
      exact hi sec hlt hsec
    · exact hi _ hlt (by rw [hsec]; rfl)
  rw [hall, hall]
  simp only [hsize]

/-- What a writeback after a store leaves, in the terms of the tick's own state. -/
theorem Stored.writtenBack {s w u : State} {a : TrackAddr} (h : Stored s w) (hu : WrittenBack w u a) :
    WrittenBack (ticked s) u a := by
  obtain ⟨-, -, -, hcode, -⟩ := h.attributes a.drive
  unfold WrittenBack at hu ⊢
  rwa [h.draws, h.backing, hcode] at hu

/-- The end of Write Data and Format after a store, from a handler that has come to it in the state `s1`. -/
theorem Stored.finish {s w s1 : State} {a : TrackAddr} {c : Command} (h : Stored s w) (htick : HandlerTick s c)
    (hfiles : FilesKept s) (hrun : runTick c (atHandler s) = finishWithWriteback s1) (ha : s1.xfer.curTrack = some a)
    (hdisc : s1.disc = w.disc) (hback : s1.backing = s.backing) (hdraws : s1.draws = (ticked s).draws) :
    (WritesBack s a →
      exec .tick s =
        (if Config.writebackOk (ticked s).draws = true then
          .next (transferEnded { s1 with backing := (writeback a w).2.backing, result := 0x00 })
        else
          .next (setupRaised 0x12 { s1 with backing := (writeback a w).2.backing })) ∧
        WrittenBack (ticked s) (writeback a w).2 a ∧
        ∀ d, d ≠ a.drive → (writeback a w).2.backing[d] = s.backing[d]) ∧
      (¬ WritesBack s a → exec .tick s = .next (setupRaised 0x12 s1)) := by
  obtain ⟨hok, hbacking⟩ := writeback_congr (s := w) (u := startWork s1) a hdisc (hback.trans h.backing.symm)
    (hdraws.trans h.draws.symm)
  have hexec : exec .tick s =
      if (writeback a w).1 = true then
        .next (transferEnded { s1 with backing := (writeback a w).2.backing, result := 0x00 })
      else .next (setupRaised 0x12 { s1 with backing := (writeback a w).2.backing }) := by
    rw [finishWithWriteback_eq, workTrack_of_some s1 a ha, hok, hbacking] at hrun
    by_cases hw : (writeback a w).1 = true
    · rw [if_pos hw] at hrun ⊢
      exact exec_of_handler_arming htick hrun
    · rw [if_neg hw] at hrun ⊢
      exact exec_of_handler_arming htick hrun
  refine ⟨fun hreach => ?_, fun hnot => ?_⟩
  · have hfilesw : FilesKept w := fun d => by rw [h.backing]; exact hfiles d
    obtain ⟨hfirst, hwritten, hother⟩ := writeback_of_writesBack h.kept hfilesw ((h.writesBack_iff a).mpr hreach)
    refine ⟨?_, h.writtenBack hwritten, fun d hd => (hother d hd).trans (by rw [h.backing])⟩
    rw [hexec, hfirst, h.draws]
  · rw [hexec, writeback_of_not_writesBack h.kept ((h.writesBack_iff a).not.mpr hnot), if_neg Bool.false_ne_true]
    rw [h.backing, ← hback]

/-- The reads of the state that a writeback after a store leaves are those of the store. -/
theorem writeback_disc (a : TrackAddr) (w : State) : (writeback a w).2.disc = w.disc := by rw [writeback_touches]

/-! The write tick (R402). -/

/-- A write tick's store of the byte at hand. -/
theorem stored_discWrite {s : State} (hd : DiscKept s) (b : ByteAddr) (v : Byte) :
    Stored s (discWrite (ticked s) b v) where
  rest := discWrite_eq _ _ _
  kept := discWrite_kept (ticked s) b v hd
  headers := discWrite_headers (ticked s) b v
  attributes := discWrite_attributesKept (ticked s) b v

/-- The byte a write tick stores, at the address of the transfer. -/
theorem storeData_atHandler {s : State} {a : TrackAddr} {i : Nat} {x : Sector} (hat : At s a i x)
    (hk : s.xfer.byteIndex < x.realSize) :
    storeData (atHandler s) =
      { atHandler s with disc := (discWrite (ticked s) ⟨a, i, s.xfer.byteIndex⟩ s.data).disc } := by
  rw [storeData_of_at (atHandler s) a i x hat hk, discWrite_eq,
    discWrite_disc_congr (ticked s) (atHandler s) _ _ rfl]
  rfl

/-- Settles O41. -/
theorem writeTickRequestsAndStoresBytes : Obligations.WriteTickRequestsAndStoresBytes := by
  intro s h
  refine ⟨exec_of_over rfl h, fun hgo hfirst => ?_, fun a i x hgo hfirst hd hat hk hinside => ?_⟩
  · refine exec_of_handler_arming h ?_
    show writeTick _ = _
    rw [writeTick, if_neg (show ¬ (atHandler s).xfer.sectorsToGo < 0 from Int.not_lt.mpr hgo)]
    exact if_pos hfirst
  · have hstored := stored_discWrite hd ⟨a, i, s.xfer.byteIndex⟩ s.data
    have hread := fun b => discRead_discWrite (ticked s) ⟨a, i, s.xfer.byteIndex⟩ b s.data x hd hat.2.2 hk
    refine ⟨discWrite (ticked s) ⟨a, i, s.xfer.byteIndex⟩ s.data, exec_of_handler_arming h ?_,
      (hread _).trans (if_pos rfl), fun b hb => (hread b).trans (if_neg hb), hstored.headers, hstored.attributes⟩
    show writeTick _ = _
    rw [writeTick, if_neg (show ¬ (atHandler s).xfer.sectorsToGo < 0 from Int.not_lt.mpr hgo),
      if_neg (show ¬ (atHandler s).xfer.firstWriteInterrupt = true from ne_true_of_eq_false hfirst),
      storeData_atHandler hat hk]
    exact if_pos hinside

/-- Settles O42: the tick's store, then the next sector or the writeback. -/
theorem writeTickAtSectorEndAdvancesOrWritesBack : Obligations.WriteTickAtSectorEndAdvancesOrWritesBack := by
  intro s a i x h hgo hfirst hd hfiles hat hk hend
  have hstored := stored_discWrite hd ⟨a, i, s.xfer.byteIndex⟩ s.data
  have hread := fun b => discRead_discWrite (ticked s) ⟨a, i, s.xfer.byteIndex⟩ b s.data x hd hat.2.2 hk
  generalize hw : discWrite (ticked s) ⟨a, i, s.xfer.byteIndex⟩ s.data = w at hstored hread
  have hdisc := writeback_disc a w
  refine ⟨(writeback a w).2, (discRead_congr w _ _ hdisc).trans ((hread _).trans (if_pos rfl)),
    fun b hb => (discRead_congr w _ _ hdisc).trans ((hread b).trans (if_neg hb)),
    fun a' => by rw [trackAt_congr w _ a' hdisc]; exact hstored.headers a',
    hstored.attributes.trans (attributesKept_of_disc _ _ hdisc), ?_⟩
  intro s1 next
  have hs1 : s1.disc = w.disc := hdisc
  have hheaders : (trackAt s1 a).headers = (trackAt s a).headers := by
    rw [trackAt_congr w s1 a hs1]; exact hstored.headers a
  have hrun : runTick .write (atHandler s) =
      if 0 < s1.xfer.sectorsToGo then nextSector { s1 with status := statusByte } else finishWithWriteback s1 := by
    have hn : (trackAt w a).nSectors = (trackAt s a).nSectors := Track.nSectors_of_headers _ _ (hstored.headers a)
    obtain ⟨y, hy⟩ := sectorAt_some_of_headers (hstored.headers a) hat.2.2
    have hpass : passSector (nextByte { atHandler s with disc := w.disc }) = { s1 with status := s.status ||| 0x08 } := by
      have hat' : At (nextByte { atHandler s with disc := w.disc }) a i { x with data := y } := ⟨hat.1, hat.2.1, hy⟩
      rw [passSector_eq _ a i _ hat',
        show (trackAt (nextByte { atHandler s with disc := w.disc }) a).nSectors = (trackAt s a).nSectors from hn, ← hdisc]
      rfl
    show writeTick _ = _
    rw [writeTick, if_neg (show ¬ (atHandler s).xfer.sectorsToGo < 0 from Int.not_lt.mpr hgo),
      if_neg (show ¬ (atHandler s).xfer.firstWriteInterrupt = true from ne_true_of_eq_false hfirst),
      storeData_atHandler hat hk, hw]
    dsimp only
    rw [if_neg (show ¬ (nextByte { atHandler s with disc := w.disc }).xfer.byteIndex <
      (nextByte { atHandler s with disc := w.disc }).xfer.sectorLength from Nat.not_lt.mpr hend), hpass]
    rfl
  have hcount : s1.xfer.sectorsToGo = s.xfer.sectorsToGo - 1 := rfl
  refine ⟨fun hmore r y hnext hy => ?found, fun hmore hnext => ?missing, fun hlast => ?writes, fun hlast => ?refused⟩
  case found =>
    rw [if_pos (by omega)] at hrun
    obtain ⟨m, hy'⟩ := sectorAt_some_of_headers hheaders hy
    rw [nextSector_of_found { s1 with status := statusByte } a r _ hat.1
      ((findSector_of_headers _ _ hheaders _ _).trans hnext) hy'] at hrun
    exact exec_of_handler_arming h hrun
  case missing =>
    rw [if_pos (by omega), nextSector_of_missing { s1 with status := statusByte } a hat.1
      ((findSector_of_headers _ _ hheaders _ _).trans hnext)] at hrun
    exact exec_of_handler_arming h hrun
  all_goals
    rw [if_neg (by omega)] at hrun
    have hfinish := hstored.finish h hfiles hrun hat.1 hs1 rfl rfl
  case writes => exact hfinish.1
  case refused => exact hfinish.2

/-! The format tick (R422). -/

/-- A format tick that does not end its transfer. -/
theorem formatTick_of_idByte {s : State} (hgo : 0 ≤ s.xfer.sectorsToGo) (hfirst : s.xfer.firstWriteInterrupt = false) :
    formatTick s =
      if s.xfer.byteIndex + 1 < 4 then requestByte Config.byteTime (nextByte s)
      else
        if 0 < s.xfer.sectorsToGo - 1 then requestByte Config.formatGapTime (nextIndex (fillCurrent (nextByte s)))
        else finishWithWriteback (nextIndex (fillCurrent (nextByte s))) := by
  have hcount : (nextIndex (fillCurrent (nextByte s))).xfer.sectorsToGo = s.xfer.sectorsToGo - 1 := by
    show (fillCurrent (nextByte s)).xfer.sectorsToGo - 1 = _
    rw [fillCurrent_xfer]
    rfl
  rw [formatTick, if_neg (Int.not_lt.mpr hgo), if_neg (ne_true_of_eq_false hfirst)]
  dsimp only
  rw [hcount]
  rfl

/-- Settles O43. -/
theorem formatTickTakesIdBytes : Obligations.FormatTickTakesIdBytes := by
  intro s h
  refine ⟨exec_of_over rfl h, fun hgo hfirst => ?_, fun hgo hfirst hk => ?_⟩
  · refine exec_of_handler_arming h ?_
    show formatTick _ = _
    rw [formatTick, if_neg (show ¬ (atHandler s).xfer.sectorsToGo < 0 from Int.not_lt.mpr hgo)]
    exact if_pos hfirst
  · refine exec_of_handler_arming h ?_
    show formatTick _ = _
    rw [formatTick_of_idByte (s := atHandler s) hgo hfirst]
    exact if_pos (Nat.succ_lt_succ hk)

/-- A format tick's fill of the sector at hand. -/
theorem stored_discFill {s : State} (hd : DiscKept s) (a : TrackAddr) (i : Nat) (v : Byte) :
    Stored s (discFill (ticked s) a i v) where
  rest := discFill_eq _ _ _ _
  kept := discFill_kept (ticked s) a i v hd
  headers := discFill_headers (ticked s) a i v
  attributes := discFill_attributesKept (ticked s) a i v

/-- The sector a format tick fills, at the address of the transfer. -/
theorem fillCurrent_atHandler {s : State} {a : TrackAddr} {i : Nat} {x : Sector} (hat : At s a i x) :
    fillCurrent (nextByte (atHandler s)) =
      { nextByte (atHandler s) with disc := (discFill (ticked s) a i 0xE5).disc } := by
  rw [fillCurrent_of_at (nextByte (atHandler s)) a i x hat, discFill_eq,
    discFill_disc_congr (ticked s) (nextByte (atHandler s)) _ _ _ rfl]

/-- Settles O44: the tick's fill, then the next sector index or the writeback. -/
theorem formatTickFillsTheSector : Obligations.FormatTickFillsTheSector := by
  intro s a i x h hgo hfirst hk hd hfiles hat
  have hstored := stored_discFill hd a i 0xE5
  have hread := fun b => discRead_discFill (ticked s) a i 0xE5 x b hat.2.2
  generalize hw : discFill (ticked s) a i 0xE5 = w at hstored hread
  have hdisc := writeback_disc a w
  refine ⟨(writeback a w).2,
    fun k hk => (discRead_congr w _ _ hdisc).trans ((hread _).trans ((if_pos ⟨rfl, rfl⟩).trans (if_pos hk))),
    fun b hb => (discRead_congr w _ _ hdisc).trans ((hread b).trans (if_neg fun hsame => ?_)),
    fun a' => by rw [trackAt_congr w _ a' hdisc]; exact hstored.headers a',
    hstored.attributes.trans (attributesKept_of_disc _ _ hdisc), ?_⟩
  · exact hb.elim (fun ht => ht hsame.1) fun hs => hs hsame.2
  intro s1
  have hs1 : s1.disc = w.disc := hdisc
  have hrun : runTick .format (atHandler s) =
      if 0 < s.xfer.sectorsToGo - 1 then armedAt 40960 { s1 with status := statusByte } else finishWithWriteback s1 := by
    have hindex : nextIndex { nextByte (atHandler s) with disc := w.disc } = { s1 with status := s.status ||| 0x08 } := by
      have hsector : workSector { nextByte (atHandler s) with disc := w.disc } = i := workSector_of_some _ i hat.2.1
      unfold nextIndex
      rw [hsector, ← hdisc]
      rfl
    show formatTick _ = _
    rw [formatTick_of_idByte (s := atHandler s) hgo hfirst, fillCurrent_atHandler hat, hw, hindex,
      if_neg (show ¬ (atHandler s).xfer.byteIndex + 1 < 4 from Nat.not_lt.mpr (Nat.succ_le_succ hk.ge))]
    rfl
  refine ⟨fun hmore => ?next, fun hlast => ?writes, fun hlast => ?refused⟩
  case next =>
    rw [if_pos (by omega)] at hrun
    exact exec_of_handler_arming h hrun
  all_goals
    rw [if_neg (by omega)] at hrun
    have hfinish := hstored.finish h hfiles hrun hat.1 hs1 rfl rfl
  case writes => exact hfinish.1
  case refused => exact hfinish.2

end Sys2Proof.Machine
end

section
/-! PROOFS. The shell's images (20_memory.md R130 to R133, R141): what the loaders put on a drive, ejecting, the writable
flag, and that the tracks of one image do not overlap in its file. -/

namespace Sys2Proof.Machine

/-! The file regions of an image's tracks (R141). -/

/-- Regions of 2560 bytes at different multiples of 2560 do not overlap. -/
theorem regions_disjoint {m n : Nat} (h : m ≠ n) : m * 2560 + 2560 ≤ n * 2560 ∨ n * 2560 + 2560 ≤ m * 2560 := by omega

/-- Settles O50: the number that the offset is a multiple by differs with the head or the track. -/
theorem trackRegionsAreDisjoint : Obligations.TrackRegionsAreDisjoint := by
  intro hc h t h' t' hh hh' ht ht' hsingle hne
  rw [Ne, Prod.mk.injEq] at hne
  match hc, hsingle with
  | 0, _ =>
    rw [trackOffset_of_doubleLength, trackOffset_of_doubleLength]
    exact regions_disjoint fun e => hne (by omega)
  | 1, hsingle =>
    obtain ⟨hzero, hzero'⟩ := hsingle rfl
    rw [trackOffset_of_interleaved (by decide), trackOffset_of_interleaved (by decide)]
    exact regions_disjoint fun e => hne (by simp only [Fin.val_one] at e; omega)
  | 2, _ =>
    rw [trackOffset_of_interleaved (by decide), trackOffset_of_interleaved (by decide)]
    exact regions_disjoint fun e => hne (by simp only [Fin.val_two] at e; omega)

/-! Raw images (R130, R131). -/

/-- The tracks of head 0 of an SSD. -/
theorem ssdDisc_head0 (bytes : List Byte) (path : String) (w : Bool) (t : Fin 80) :
    (ssdDisc bytes path w).tracks[(0 : Fin 2)][t] = rawTrack t.val 0 bytes (t.val * Config.trackBytes) := by
  unfold ssdDisc
  split
  · exact rawHead_get 0 bytes (fun t => t * Config.trackBytes) t
  · exact rawHead_get 0 bytes (fun t => t * Config.trackBytes) t

/-- The tracks of head 1 of a double-length SSD. -/
theorem ssdDisc_head1_of_double {bytes : List Byte} (h : 0x40000 < bytes.length) (path : String) (w : Bool) (t : Fin 80) :
    (ssdDisc bytes path w).tracks[(1 : Fin 2)][t] = rawTrack t.val 1 bytes ((t.val + 80) * Config.trackBytes) := by
  rw [ssdDisc, if_pos (show Config.ssdDoubleThreshold < bytes.length from h)]
  exact rawHead_get 1 bytes (fun t => (t + 80) * Config.trackBytes) t

/-- A shorter SSD has no tracks on head 1. -/
theorem ssdDisc_head1_of_single {bytes : List Byte} (h : ¬ 0x40000 < bytes.length) (path : String) (w : Bool)
    (t : Fin 80) : (ssdDisc bytes path w).tracks[(1 : Fin 2)][t] = emptyTrack := by
  rw [ssdDisc, if_neg (show ¬ Config.ssdDoubleThreshold < bytes.length from h)]
  exact headOf_get [] t

/-- What an SSD says of itself. -/
theorem ssdDisc_attributes (bytes : List Byte) (path : String) (w : Bool) :
    ssdDisc bytes path w =
      { path := path, kind := .ssd, writable := w
        headsCode := if decide (0x40000 < bytes.length) = true then 0 else 1
        totalTracks := 0, tracks := (ssdDisc bytes path w).tracks } := by
  by_cases h : 0x40000 < bytes.length
  · rw [ssdDisc, if_pos (show Config.ssdDoubleThreshold < bytes.length from h), if_pos (decide_eq_true h)]
  · rw [ssdDisc, if_neg (show ¬ Config.ssdDoubleThreshold < bytes.length from h),
      if_neg (ne_true_of_eq_false (decide_eq_false h))]

/-- Settles O47. -/
theorem loadedSsdHoldsTheImage : Obligations.LoadedSsdHoldsTheImage := by
  intro s d h t bytes path w u double
  obtain ⟨hdisc, hfile, -⟩ := mount_get d (ssdDisc bytes path w) (File.ofBytes bytes) s
  have htrack : ∀ h, trackAt u ⟨d, h, t⟩ = (ssdDisc bytes path w).tracks[h][t] := fun h => trackAt_mount d h t _ _ s
  refine ⟨fun hhead => rawTrackHolds_of_eq _ _ _ _ ?_, fun hone hsingle => ?_, ?_, ?_, mount_touches _ _ _ _⟩
  · match h, hhead with
    | 0, _ => rw [htrack, ssdDisc_head0]; rfl
    | 1, hhead =>
      have hdouble : 0x40000 < bytes.length := of_decide_eq_true (hhead.resolve_left (by decide))
      rw [htrack, ssdDisc_head1_of_double hdouble]
      rfl
  · subst hone
    rw [htrack, ssdDisc_head1_of_single (of_decide_eq_false hsingle)]
    rfl
  · have hu : u.disc[d] = ssdDisc bytes path w := hdisc
    rw [hu]
    exact ssdDisc_attributes bytes path w
  · have hu : u.backing[d] = File.ofBytes bytes := hfile
    rw [hu]
    exact fileHolds_ofBytes bytes

/-- The tracks of a DSD. -/
theorem dsdDisc_track (bytes : List Byte) (path : String) (w : Bool) (h : Fin 2) (t : Fin 80) :
    (dsdDisc bytes path w).tracks[h][t] = rawTrack t.val h.val bytes ((2 * t.val + h.val) * 2560) := by
  match h with
  | 0 => exact rawHead_get 0 bytes (fun t => 2 * t * Config.trackBytes) t
  | 1 => exact rawHead_get 1 bytes (fun t => (2 * t + 1) * Config.trackBytes) t

/-- Settles O48. -/
theorem loadedDsdIsInterleavedByTrack : Obligations.LoadedDsdIsInterleavedByTrack := by
  intro s d h t bytes path w u
  obtain ⟨hdisc, hfile, -⟩ := mount_get d (dsdDisc bytes path w) (File.ofBytes bytes) s
  refine ⟨rawTrackHolds_of_eq _ _ _ _ ?_, ?_, ?_, mount_touches _ _ _ _⟩
  · exact (trackAt_mount d h t _ _ s).trans (dsdDisc_track bytes path w h t)
  · have hu : u.disc[d] = dsdDisc bytes path w := hdisc
    rw [hu]
    rfl
  · have hu : u.backing[d] = File.ofBytes bytes := hfile
    rw [hu]
    exact fileHolds_ofBytes bytes

/-! FSD images (R132). -/

/-- The disc the loader makes of a loadable FSD image. -/
def FsdImage.disc (m : FsdImage) (path : String) : Disc :=
  { path := path, kind := .fsd, writable := false, headsCode := 1, totalTracks := m.tracks.length
    tracks := #v[headOf (fsdLoadedTracks 0 m.tracks), headOf []] }

theorem runShell_loadFSD {m : FsdImage} (hs : m.Shaped) (hl : m.Loadable) (d : Fin 2) (after : List Byte)
    (path : String) (s : State) :
    runShell (.loadFSD d (m.bytes ++ after) path) s =
      mount d (m.disc path) (File.ofBytes (m.bytes ++ after)) s := by
  show (match fsdDisc (m.bytes ++ after) path with
    | some disc => mount d disc (File.ofBytes (m.bytes ++ after)) s
    | none => unmount d s) = _
  rw [fsdDisc_bytes m hs hl]
  rfl

/-- A load that fails leaves the drive empty (R133). -/
theorem runShell_loadFSD_of_none {bytes : List Byte} {path : String} (h : fsdDisc bytes path = none) (d : Fin 2)
    (s : State) : DriveEmptied s (runShell (.loadFSD d bytes path) s) d := by
  have hrun : runShell (.loadFSD d bytes path) s = unmount d s := by
    show (match fsdDisc bytes path with
      | some disc => mount d disc (File.ofBytes bytes) s
      | none => unmount d s) = _
    rw [h]
  rw [hrun]
  exact unmount_empties d s

/-- The tracks of head 0: the image's, and empty tracks above them. -/
theorem FsdImage.disc_head0 (m : FsdImage) (path : String) (t : Fin 80) :
    (m.disc path).tracks[(0 : Fin 2)][t] = ((m.tracks[t.val]?).map (FsdTrack.loaded t.val)).getD emptyTrack := by
  have hget := headOf_get (fsdLoadedTracks 0 m.tracks) t
  rw [fsdLoadedTracks_get, Nat.zero_add] at hget
  exact hget

/-- A sector of a loaded track. -/
theorem FsdTrack.loaded_sectorAt {tr : FsdTrack} {k : Nat} {x : FsdSector} (t : Nat) (hx : tr.sectors[k]? = some x) :
    (tr.loaded t).sectorAt k = some (x.loaded t k tr.stored) := by
  have hlt := (List.getElem?_eq_some_iff.mp hx).1
  have hne : tr.sectors ≠ [] := fun he => by rw [he] at hlt; exact Nat.not_lt_zero _ hlt
  rw [FsdTrack.loaded, if_neg hne, Track.sectorAt_some]
  refine ⟨hlt, ?_⟩
  rw [fsdLoaded_get, hx, Nat.zero_add]
  rfl

/-- The bytes of a loaded sector: those of the image where its track carries data, and none elsewhere. -/
theorem FsdSector.loaded_read {x : FsdSector} {stored : Bool} (hok : x.Ok stored) (t k j : Nat) :
    (if j < (x.loaded t k stored).realSize then some (Memory.read (x.loaded t k stored).data j) else none) =
      if stored = true then x.data[j]? else none := by
  cases stored with
  | false => exact if_neg (Nat.not_lt_zero j)
  | true =>
    have hlength := hok.length rfl
    have hread : Memory.read (x.loaded t k true).data j = x.data.getD j 0x00 := by
      show Memory.read (Memory.ofBytes 0 x.data) j = _
      rw [Memory.read_ofBytes 0 j x.data (Nat.zero_le j), Nat.sub_zero]
    rw [if_pos rfl, hread]
    show (if j < 128 * 2 ^ x.realCode.toNat then _ else _) = _
    rw [← hlength]
    split
    · rename_i hj; rw [List.getD_eq_getElem?_getD, List.getElem?_eq_getElem hj]; rfl
    · rename_i hj; rw [List.getElem?_eq_none (Nat.not_lt.mp hj)]

/-- A loadable image is mounted. -/
theorem fsdMounted_mount {m : FsdImage} (hs : m.Shaped) (hl : m.Loadable) (s : State) (d : Fin 2) (path : String)
    (file : File) : FsdMounted s (mount d (m.disc path) file s) d m path := by
  have htrack : ∀ t : Fin 80, trackAt (mount d (m.disc path) file s) ⟨d, 0, t⟩ =
      ((m.tracks[t.val]?).map (FsdTrack.loaded t.val)).getD emptyTrack := fun t =>
    (trackAt_mount d 0 t _ _ s).trans (m.disc_head0 path t)
  have hwritten : ∀ (t : Fin 80) (tr : FsdTrack), m.tracks[t.val]? = some tr →
      trackAt (mount d (m.disc path) file s) ⟨d, 0, t⟩ = tr.loaded t.val := fun t tr htr => by
    rw [htrack, htr]; rfl
  refine ⟨mount_touches _ _ _ _, ?disc, fun t => ?head1, fun t ht => ?above, fun t tr htr he => ?unformatted,
    fun t tr htr hne => ?header, fun t tr k x htr hx => ?sector⟩
  case disc => rw [(mount_get d (m.disc path) file s).1]; rfl
  case head1 => exact (trackAt_mount d 1 t _ _ s).trans (headOf_get [] t)
  case above => rw [htrack, List.getElem?_eq_none ht]; rfl
  case unformatted => rw [hwritten t tr htr, FsdTrack.loaded, if_pos he]; rfl
  case header => rw [hwritten t tr htr, FsdTrack.loaded, if_neg hne]
  case sector =>
    have hok : x.Ok tr.stored :=
      (m.tracks_ok hs hl tr (List.mem_of_getElem? htr)).sectors x (List.mem_of_getElem? hx)
    have hsector : (trackAt (mount d (m.disc path) file s) ⟨d, 0, t⟩).sectorAt k = some (x.loaded t.val k tr.stored) := by
      rw [hwritten t tr htr]; exact FsdTrack.loaded_sectorAt t.val hx
    refine ⟨_, hsector, rfl, fun j => ?_⟩
    unfold discRead
    dsimp only
    rw [hsector]
    exact FsdSector.loaded_read hok t.val k j

/-! The writable flag (R720). -/

/-- Setting the writable flag changes that flag of that drive's disc alone, and is misuse while busy (R722). -/
theorem setWritable_touches (d : Fin 2) (w : Bool) (s : State) :
    (setWritable d w s).disc[d] = { s.disc[d] with writable := w } ∧ ShellTouches s (setWritable d w s) d := by
  refine ⟨by simp [setWritable], rfl, rfl, fun d' hd => ⟨?_, rfl⟩⟩
  have hval : (d : Nat) ≠ d' := fun e => hd (Fin.ext e.symm)
  have hset : (s.disc.set d { s.disc[d] with writable := w })[d'] = s.disc[d'] := Vector.getElem_set_ne _ _ hval
  exact hset

/-- Settles O60: the loader by what the parser answers, ejecting and the writable flag by their definitions, and the
step that runs them. -/
theorem shellLoadsFsdEjectsAndSetsWritable : Obligations.ShellLoadsFsdEjectsAndSetsWritable := by
  refine ⟨fun s d m after path hs => ⟨fun hl => ?_, fun hl => runShell_loadFSD_of_none (fsdDisc_refused m hs hl _ _) d s⟩,
    fun s d m n path hs hl hn => runShell_loadFSD_of_none (fsdDisc_short m hs hl n hn path) d s,
    fun s d => unmount_empties d s, fun s d w => ⟨(setWritable_touches d w s).1, rfl, (setWritable_touches d w s).2⟩,
    fun s now op rest hhost => step_of_host_cons hhost⟩
  rw [runShell_loadFSD hs hl]
  refine ⟨fsdMounted_mount hs hl s d path _, ?_⟩
  rw [(mount_get d (m.disc path) (File.ofBytes (m.bytes ++ after)) s).2.1]
  exact fileHolds_ofBytes _

end Sys2Proof.Machine
end
